-- ==== Sys2Proof/Word.lean ====
section
/-! DEFINITION. The words of the block: a byte, and the truncations of rule R6. -/

namespace Sys2Proof

/-- One byte: the width of every register address, register byte and calendar port but Year (R4, R40). -/
abbrev Byte := BitVec 8

/-- `trunc_8(v) = v mod 2^8` (R6). -/
abbrev trunc8 (v : Nat) : Byte := BitVec.ofNat 8 v

/-- `trunc_9(v) = v mod 2^9` (R6), for the Year port and register (R63). -/
abbrev trunc9 (v : Nat) : BitVec 9 := BitVec.ofNat 9 v

end Sys2Proof
end

