-- ==== Sys2Proof/Config.lean ====
section
/-! DEFINITION. What is fixed for one model instance: the parameters of rule R4, the register map of rule R41,
and the free values the spec leaves open. -/

namespace Sys2Proof.Config

/-- The two legal values of P_MIN_PATTERN (R4): `0b1100`, the default, and `0b1010`. -/
inductive MinPattern where
  | p1100
  | p1010
deriving DecidableEq, Repr

/-- The parameters of one model instance (R4). No step and no reset changes them (R220). -/
structure Params where
  /-- P_MIN_PATTERN -/
  minPattern : MinPattern
  /-- P_OFF_INFERENCE -/
  offInference : Bool
deriving DecidableEq, Repr

/-- The defaults of rule R4. -/
def defaultParams : Params := ⟨.p1100, true⟩

/-- TD_BASE (R4). -/
def tdBase : Byte := 0x00
/-- TD_LEN (R4). -/
def tdLen : Nat := 7
/-- First address of the time part, Second (R41, R124). -/
def timeBase : Byte := 0x00
/-- Bytes a time-only encode writes (R124). -/
def timeLen : Nat := 3
/-- First address of the date part, Weekday (R41, R125). -/
def dateBase : Byte := 0x03
/-- Bytes a date-only encode writes (R125). -/
def dateLen : Nat := 4
/-- A1_BASE (R4). -/
def a1Base : Byte := 0x07
/-- A1_LEN (R4). -/
def a1Len : Nat := 4
/-- A2_BASE (R4). -/
def a2Base : Byte := 0x0B
/-- A2_LEN (R4). -/
def a2Len : Nat := 3

/-- FREE VALUE (R46; log entry 3): the byte the environment answers for register address `addr` at draw number
`draw`, when the last byte delivered there (if any) is `delivered` and the state lists no answer. Nothing is
known of it. -/
opaque chipByte (draw addr : Nat) (delivered : Option Byte) : Byte

/-- FREE VALUE (R222; log entry 7): whether a reset asserted while a command is issued comes before it. -/
opaque resetFirst (draw : Nat) : Bool

end Sys2Proof.Config
end

