-- ==== Sys2Proof/Syntax.lean ====
section
/-! DEFINITION. The commands of rule R61 with the operands their rows of rule R62 name, the input ports, the
alarm modes of rule R64, and the assembly lines of rules R69 and R70. -/

namespace Sys2Proof

/-- The instructions: one constructor per row of spec/opcode_table.json. An operand is the value of the input port
its row of rule R62 names, at the port's width. -/
inductive Instr where
  | bcd2dec (a : Byte)
  | dec2bcd (a : Byte)
  | calDecode
  | calEncodeFull (sec min hour wday day mon : Byte) (year : BitVec 9)
  | calEncodeTime (sec min hour : Byte)
  | calEncodeDate (wday day mon : Byte) (year : BitVec 9)
  | almDecode (alm : Byte)
  | almEncode (alm : Byte) (mode : BitVec 4) (sec min hour wday day : Byte)
deriving DecidableEq, Repr

/-- The input ports (R62): `a`, `sec_in`, `min_in`, `hour_in`, `wday_in`, `day_in`, `mon_in`, `year_in`,
`alm_num`, `mode_in`. -/
structure Ports where
  a : Byte
  sec : Byte
  min : Byte
  hour : Byte
  wday : Byte
  day : Byte
  mon : Byte
  year : BitVec 9
  alm : Byte
  mode : BitVec 4
deriving DecidableEq, Repr

/-- "A port left unwritten is 0" (R69). -/
def Ports.zero : Ports := ⟨0, 0, 0, 0, 0, 0, 0, 0, 0, 0⟩

/-- A command: one 8-bit command word together with the input ports (R60). -/
structure Command where
  word : Byte
  ports : Ports
deriving DecidableEq, Repr

/-- The eight mnemonics of rule R61. -/
inductive Mnemonic where
  | bcd2dec
  | dec2bcd
  | calDecode
  | calEncodeFull
  | calEncodeTime
  | calEncodeDate
  | almDecode
  | almEncode
deriving DecidableEq, Repr

/-- AlarmMode, in the order of rule R64. -/
inductive AlarmMode where
  | unknown
  | perSecond
  | perMinute
  | secondsMatch
  | minutesMatch
  | hoursMatch
  | dateMatch
  | dayMatch
  | off
deriving DecidableEq, Repr

/-- The two alarms (R4): Alarm 1 with seconds, Alarm 2 without. -/
inductive AlarmNum where
  | one
  | two
deriving DecidableEq, Repr

/-- The names of the input ports in an assembly line (R69): the port names of rule R62 without `_in`, `alm` for
`alm_num`. -/
inductive Port where
  | a
  | sec
  | min
  | hour
  | wday
  | day
  | mon
  | year
  | alm
  | mode
deriving DecidableEq, Repr

/-- What stands first in an assembly line (R69): a mnemonic, or `RESERVED 0x<hh>`. -/
inductive Head where
  | mnemonic (m : Mnemonic)
  | reserved (word : Nat)
deriving DecidableEq, Repr

/-- One assembly line (R69), its values not yet held against the ports' widths. -/
structure Line where
  head : Head
  sets : List (Port × Nat)
deriving DecidableEq, Repr

/-- The pseudo-commands of rule R70. `rest` of `SET_ALARM n,mode,...` is a list of port assignments. -/
inductive Pseudo where
  | readTime
  | setDatetime (s m h wd d mo y : Nat)
  | setTime (s m h : Nat)
  | setDate (wd d mo y : Nat)
  | readAlarm (n : Nat)
  | setAlarm (n mode : Nat) (rest : List (Port × Nat))
  | alarmOff (n : Nat)
deriving DecidableEq, Repr

end Sys2Proof
end

