-- ==== Sys2Proof/WellFormed.lean ====
section
/-! DEFINITION. Which assembly lines of rule R69 are well formed. An `Instr` and a `Command` need no check: their
operand types are exactly the port widths of rule R62, so an ill-formed one cannot be written. -/

namespace Sys2Proof

/-- The width of each input port (R62). -/
def Port.width : Port → Nat
  | .year => 9
  | .mode => 4
  | .a => 8
  | .sec => 8
  | .min => 8
  | .hour => 8
  | .wday => 8
  | .day => 8
  | .mon => 8
  | .alm => 8

/-- Every value fits its port: "inputs wider than the ports cannot be expressed" (D4). -/
def Line.valuesFit (l : Line) : Bool := l.sets.all fun pv => pv.2 < 2 ^ pv.1.width

/-- No port is written twice (log entry 10). -/
def Line.portsOnce (l : Line) : Bool := (l.sets.map (·.1)).Nodup

/-- The eight legal command words (R61). -/
def legalWords : List Byte := [0x00, 0x01, 0x02, 0x03, 0x0B, 0x13, 0x04, 0x05]

/-- `RESERVED 0x<hh>` names a reserved command word (R69). -/
def Head.reservedIsReserved : Head → Bool
  | .mnemonic _ => true
  | .reserved w => w < 2 ^ 8 && !(legalWords.contains (trunc8 w))

/-- The well-formed lines. -/
def Line.wf (l : Line) : Bool := l.valuesFit && l.portsOnce && l.head.reservedIsReserved

end Sys2Proof
end

