-- ==== Sys2Proof/Decode.lean ====
section
/-! DEFINITION. Decoding a command word with its input ports (R60 to R67), the encoder back, and the command an
assembly line of rule R69 stands for. -/

namespace Sys2Proof

/-- What a command word decodes to (R67): one of the eight commands, or RESERVED. -/
inductive Decoded where
  | command (i : Instr)
  | reserved (word : Byte)
deriving DecidableEq, Repr

/-- The eight words of rule R61. "A decoder tests `cmd` for equality against the eight values" (R67). -/
def mnemonicOf (w : Byte) : Option Mnemonic :=
  if w = 0x00 then some .bcd2dec
  else if w = 0x01 then some .dec2bcd
  else if w = 0x02 then some .calDecode
  else if w = 0x03 then some .calEncodeFull
  else if w = 0x0B then some .calEncodeTime
  else if w = 0x13 then some .calEncodeDate
  else if w = 0x04 then some .almDecode
  else if w = 0x05 then some .almEncode
  else none

/-- The command word: OP in bits 2:0, SC in bits 4:3, RSV in bits 7:5 (R60). -/
def packWord (rsv : BitVec 3) (sc : BitVec 2) (op : BitVec 3) : Byte := rsv ++ sc ++ op

/-- The words of rule R61, from the OP and SC values of its table. -/
def Mnemonic.word : Mnemonic → Byte
  | .bcd2dec => packWord 0b000 0b00 0b000
  | .dec2bcd => packWord 0b000 0b00 0b001
  | .calDecode => packWord 0b000 0b00 0b010
  | .calEncodeFull => packWord 0b000 0b00 0b011
  | .calEncodeTime => packWord 0b000 0b01 0b011
  | .calEncodeDate => packWord 0b000 0b10 0b011
  | .almDecode => packWord 0b000 0b00 0b100
  | .almEncode => packWord 0b000 0b00 0b101

/-- Sampling the input ports (R26, R62): "A command ignores every port that its row does not name." -/
def sample (p : Ports) : Mnemonic → Instr
  | .bcd2dec => .bcd2dec p.a
  | .dec2bcd => .dec2bcd p.a
  | .calDecode => .calDecode
  | .calEncodeFull => .calEncodeFull p.sec p.min p.hour p.wday p.day p.mon p.year
  | .calEncodeTime => .calEncodeTime p.sec p.min p.hour
  | .calEncodeDate => .calEncodeDate p.wday p.day p.mon p.year
  | .almDecode => .almDecode p.alm
  | .almEncode => .almEncode p.alm p.mode p.sec p.min p.hour p.wday p.day

/-- The decoder, total on all 256 words and all port values (R67). -/
def decode (c : Command) : Decoded :=
  match mnemonicOf c.word with
  | some m => .command (sample c.ports m)
  | none => .reserved c.word

/-- The command that stands for an instruction: its word of rule R61 and its operands on their ports, every other
port 0 (R69). -/
def encode : Instr → Command
  | .bcd2dec a => ⟨Mnemonic.bcd2dec.word, { Ports.zero with a := a }⟩
  | .dec2bcd a => ⟨Mnemonic.dec2bcd.word, { Ports.zero with a := a }⟩
  | .calDecode => ⟨Mnemonic.calDecode.word, Ports.zero⟩
  | .calEncodeFull sec min hour wday day mon year =>
    ⟨Mnemonic.calEncodeFull.word,
      { Ports.zero with sec := sec, min := min, hour := hour, wday := wday, day := day, mon := mon, year := year }⟩
  | .calEncodeTime sec min hour =>
    ⟨Mnemonic.calEncodeTime.word, { Ports.zero with sec := sec, min := min, hour := hour }⟩
  | .calEncodeDate wday day mon year =>
    ⟨Mnemonic.calEncodeDate.word, { Ports.zero with wday := wday, day := day, mon := mon, year := year }⟩
  | .almDecode alm => ⟨Mnemonic.almDecode.word, { Ports.zero with alm := alm }⟩
  | .almEncode alm mode sec min hour wday day =>
    ⟨Mnemonic.almEncode.word,
      { Ports.zero with alm := alm, mode := mode, sec := sec, min := min, hour := hour, wday := wday, day := day }⟩

/-- The instruction the decoder reads from a table word: a word of more than 8 bits is no command (R60), and the
ports, which the table gives no bits, are 0. -/
def decodeTableWord (nbits w : Nat) : Option Instr :=
  if w % 2 ^ nbits < 2 ^ 8 then
    match decode ⟨trunc8 (w % 2 ^ nbits), Ports.zero⟩ with
    | .command i => some i
    | .reserved _ => none
  else none

/-- The ports with one port written (R69). -/
def Ports.put (p : Ports) (port : Port) (v : Nat) : Ports :=
  match port with
  | .a => { p with a := trunc8 v }
  | .sec => { p with sec := trunc8 v }
  | .min => { p with min := trunc8 v }
  | .hour => { p with hour := trunc8 v }
  | .wday => { p with wday := trunc8 v }
  | .day => { p with day := trunc8 v }
  | .mon => { p with mon := trunc8 v }
  | .year => { p with year := trunc9 v }
  | .alm => { p with alm := trunc8 v }
  | .mode => { p with mode := BitVec.ofNat 4 v }

/-- The command byte a line's head stands for (R69). -/
def Head.word : Head → Byte
  | .mnemonic m => m.word
  | .reserved w => trunc8 w

/-- The ports with a list of assignments made, every other port 0 (R69). -/
def Ports.ofSets (sets : List (Port × Nat)) : Ports := sets.foldl (fun p pv => p.put pv.1 pv.2) Ports.zero

/-- "The encoding of a line is the single command byte `cmd` of rule R61, plus the port values" (R69). An
ill-formed line stands for no command. -/
def Line.command (l : Line) : Option Command :=
  if l.wf then some ⟨l.head.word, Ports.ofSets l.sets⟩ else none

/-- The head that writes a command word: its mnemonic, or `RESERVED` (R69). -/
def Head.ofWord (w : Byte) : Head :=
  match mnemonicOf w with
  | some m => .mnemonic m
  | none => .reserved w.toNat

/-- The abstract line that writes a command, every port named in the order of rule R62. DESIGN CHOICE (log entry 10): it
sets ports beside `RESERVED` too, which the text form does not. -/
def Line.ofCommand (c : Command) : Line :=
  ⟨Head.ofWord c.word,
    [(.a, c.ports.a.toNat), (.sec, c.ports.sec.toNat), (.min, c.ports.min.toNat), (.hour, c.ports.hour.toNat),
      (.wday, c.ports.wday.toNat), (.day, c.ports.day.toNat), (.mon, c.ports.mon.toNat), (.year, c.ports.year.toNat),
      (.alm, c.ports.alm.toNat), (.mode, c.ports.mode.toNat)]⟩

/-- The expansion of each pseudo-command, exactly one command line (R70). -/
def Pseudo.line : Pseudo → Line
  | .readTime => ⟨.mnemonic .calDecode, []⟩
  | .setDatetime s m h wd d mo y =>
    ⟨.mnemonic .calEncodeFull,
      [(.sec, s), (.min, m), (.hour, h), (.wday, wd), (.day, d), (.mon, mo), (.year, y)]⟩
  | .setTime s m h => ⟨.mnemonic .calEncodeTime, [(.sec, s), (.min, m), (.hour, h)]⟩
  | .setDate wd d mo y => ⟨.mnemonic .calEncodeDate, [(.wday, wd), (.day, d), (.mon, mo), (.year, y)]⟩
  | .readAlarm n => ⟨.mnemonic .almDecode, [(.alm, n)]⟩
  | .setAlarm n mode rest => ⟨.mnemonic .almEncode, (.alm, n) :: (.mode, mode) :: rest⟩
  | .alarmOff n => ⟨.mnemonic .almEncode, [(.alm, n), (.mode, 8)]⟩

end Sys2Proof
end

