-- ==== Sys2Proof/Machine/State.lean ====
section
/-! DEFINITION. The machine's state, its reset, and the ways a step can stop. -/

namespace Sys2Proof.Machine

/-- The block has no fault: "Every command completes in its own step, and every input leads to a defined outcome"
(R200). No constructor, so no step can end in a fault. -/
inductive Fault where
deriving DecidableEq, Repr

/-- Why a step has no meaning. -/
inductive Refusal where
  /-- Raised by an arm of `exec` whose instruction has no meaning yet; safe. No arm of this model raises it. -/
  | notModelled (mnemonic : String)
deriving DecidableEq, Repr

/-- The result registers, the block's only registers (R22). -/
structure Results where
  y : Byte
  sec : Byte
  min : Byte
  hour : Byte
  wday : Byte
  day : Byte
  mon : Byte
  year : BitVec 9
  mode : BitVec 4
  rb0 : Byte
  rb1 : Byte
  rb2 : Byte
  rb3 : Byte
  rb4 : Byte
  rb5 : Byte
  rb6 : Byte
  txnDir : BitVec 2
  txnAddr : Byte
  txnLen : BitVec 3
  status : Byte
deriving DecidableEq, Repr

/-- Every result register 0: what reset leaves (R220), and what a command starts from, since "a result register that
the command's rule does not name is written with 0" (R26). -/
def Results.zero : Results := ⟨0, 0, 0, 0, 0, 0, 0, 0, 0, 0, 0, 0, 0, 0, 0, 0, 0, 0, 0, 0⟩

/-- The names of the result registers (R22). -/
inductive ResultReg where
  | y
  | sec
  | min
  | hour
  | wday
  | day
  | mon
  | year
  | mode
  | rb (i : Fin 7)
  | txnDir
  | txnAddr
  | txnLen
  | status
deriving DecidableEq, Repr

/-- A memory over the register address space (R40): (address, byte) cells with strictly rising addresses. An
unlisted address holds no known byte (R33; log entries 3 and 4). -/
abbrev Memory := List Host.Cell

/-- The two directions of a burst (R7). -/
inductive Dir where
  | read
  | write
deriving DecidableEq, Repr

/-- One transport burst (R7): its direction, start address and bytes, byte `i` at address `addr + i` (R43). -/
structure Burst where
  dir : Dir
  addr : Byte
  bytes : List Byte
deriving DecidableEq, Repr

/-- What the host can do to the block (R226): issue a command, reset it between commands, assert reset while it
issues a command (R222), read a result register. No move overlaps two commands. -/
inductive HostMove where
  | issue (c : Command)
  | reset
  | issueWithReset (c : Command)
  | read (r : ResultReg)
deriving DecidableEq, Repr

/-- The whole machine: the block's result registers, the instance's parameters, the host's coming moves, and the
environment. -/
structure State where
  /-- the result registers (R22) -/
  out : Results
  /-- P_MIN_PATTERN and P_OFF_INFERENCE (R4; log entry 5) -/
  params : Config.Params
  /-- the moves the host has still to make, the next first (R70, R226; log entry 1) -/
  host : List HostMove
  /-- the RTC register file as each coming `MemRead` will find it, the next first (R46, R48; log entry 3) -/
  snapshots : List Memory
  /-- the byte last delivered to each RTC register address by `MemWrite` (R7, R20; log entry 4) -/
  delivered : Memory
  /-- the bursts issued, oldest first (R227; log entry 6) -/
  bursts : List Burst
  /-- how many free values have been drawn: the model's own counter (log entry 3) -/
  draws : Nat
deriving DecidableEq, Repr

/-- What a step answers. -/
abbrev Result := Host.Outcome State Fault Refusal

/-- The machine right after reset (R220, R33, R4). -/
def State.reset : State where
  out := Results.zero
  params := Config.defaultParams
  host := []
  snapshots := []
  delivered := []
  bursts := []
  draws := 0

end Sys2Proof.Machine
end

