-- ==== Sys2Proof/Machine/Flags.lean ====
section
/-! DEFINITION. STATUS (R24): its bits, and the one computation that writes it. -/

namespace Sys2Proof.Machine

/-- STATUS as every command rewrites it (R24, R26): VALID 1, the named bits, bits 7:6 always 0. -/
def statusWord (ecmd ealm emode wdnorm offinf : Bool) : Byte :=
  0b00#2 ++ BitVec.ofBool offinf ++ BitVec.ofBool wdnorm ++ BitVec.ofBool emode ++ BitVec.ofBool ealm
    ++ BitVec.ofBool ecmd ++ 0b1#1

/-- VALID only: STATUS = 0x01. -/
def statusOk : Byte := statusWord false false false false false
/-- VALID and ECMD: STATUS = 0x03 (R66). -/
def statusEcmd : Byte := statusWord true false false false false
/-- VALID and EALM: STATUS = 0x05 (R155, R163). -/
def statusEalm : Byte := statusWord false true false false false
/-- VALID and EMODE: STATUS = 0x09 (R163). -/
def statusEmode : Byte := statusWord false false true false false
/-- VALID, and WDNORM if the weekday was normalised: STATUS = 0x01 or 0x11 (R123, R125). -/
def statusWeekday (changed : Bool) : Byte := statusWord false false false changed false
/-- VALID, and OFFINF if the mode was reclassified as Off: STATUS = 0x01 or 0x21 (R155). -/
def statusOff (inferred : Bool) : Byte := statusWord false false false false inferred

/-- STATUS.VALID, bit 0 (R24). -/
def Results.valid (r : Results) : Bool := r.status.getLsbD 0
/-- STATUS.ECMD, bit 1 (R24). -/
def Results.ecmd (r : Results) : Bool := r.status.getLsbD 1
/-- STATUS.EALM, bit 2 (R24). -/
def Results.ealm (r : Results) : Bool := r.status.getLsbD 2
/-- STATUS.EMODE, bit 3 (R24). -/
def Results.emode (r : Results) : Bool := r.status.getLsbD 3
/-- STATUS.WDNORM, bit 4 (R24). -/
def Results.wdnorm (r : Results) : Bool := r.status.getLsbD 4
/-- STATUS.OFFINF, bit 5 (R24). -/
def Results.offinf (r : Results) : Bool := r.status.getLsbD 5

end Sys2Proof.Machine
end

