-- ==== Sys2Proof/Machine/Operands.lean ====
section
/-! DEFINITION. The operand functions of rule R8 that several commands share: the BCD conversions and the hour rule
(40_bcd.md), the field masks of rule R68, weekday normalisation, alarm numbers and alarm mode codes. -/

namespace Sys2Proof.Machine

/-- `BCD2DEC(v)` (R100), a natural number in 0..165. -/
def bcd2dec (v : Byte) : Nat := v.toNat / 16 * 10 + v.toNat % 16

/-- `DEC2BCD(v)` (R101), a natural number. -/
def dec2bcd (v : Nat) : Nat := v / 10 * 16 + v % 10

/-- `DEC2BCD8(v) = trunc_8(DEC2BCD(v))` (R102). -/
def dec2bcd8 (v : Byte) : Byte := trunc8 (dec2bcd v.toNat)

/-- `HOURDEC(b)` (R103): 12-hour form if bit 6 is set, with 12 added if bit 5 (PM) is set; 24-hour form otherwise. -/
def hourdec (b : Byte) : Nat :=
  if b.getLsbD 6 then
    if b.getLsbD 5 then bcd2dec (b &&& 0x1F) + 12 else bcd2dec (b &&& 0x1F)
  else bcd2dec (b &&& 0x3F)

/-- Second or Minute of a register byte (R68): bits 6:0. -/
def sexagesimalField (b : Byte) : Byte := trunc8 (bcd2dec (b &&& 0x7F))

/-- Hour of a register byte (R68). -/
def hourField (b : Byte) : Byte := trunc8 (hourdec b)

/-- Weekday of a register byte (R68): bits 2:0. -/
def weekdayField (b : Byte) : Byte := trunc8 (bcd2dec (b &&& 0x07))

/-- Day of the month of a register byte (R68): bits 5:0. -/
def dayField (b : Byte) : Byte := trunc8 (bcd2dec (b &&& 0x3F))

/-- Month of a register byte (R68): bits 4:0. -/
def monthField (b : Byte) : Byte := trunc8 (bcd2dec (b &&& 0x1F))

/-- The century flag, bit 7 of the Month byte (R28). -/
def centuryFlag (month : Byte) : Bool := month.getLsbD 7

/-- Year of the Year byte and the Month byte that carries the century flag (R68, R120). -/
def yearField (year month : Byte) : BitVec 9 :=
  trunc9 (bcd2dec year + if centuryFlag month then 100 else 0)

/-- `NORMWD(w)` (R121): 1 if `w = 0` or `w > 7`, else `w`. -/
def normwd (w : Byte) : Byte := if w = 0 ∨ 7 < w.toNat then 1 else w

/-- Whether `NORMWD` changes its argument (R121): what STATUS.WDNORM reports. -/
def weekdayChanged (w : Byte) : Bool := normwd w != w

/-- The alarm a number names; `none` for a number outside {1,2} (R62, R155). -/
def alarmOf (n : Byte) : Option AlarmNum :=
  if n = 1 then some .one else if n = 2 then some .two else none

/-- The code of an alarm mode (R64). -/
def modeCode : AlarmMode → BitVec 4
  | .unknown => 0
  | .perSecond => 1
  | .perMinute => 2
  | .secondsMatch => 3
  | .minutesMatch => 4
  | .hoursMatch => 5
  | .dateMatch => 6
  | .dayMatch => 7
  | .off => 8

/-- The mode a code names; codes 9 to 15 name none (R64). -/
def modeOfCode (c : BitVec 4) : Option AlarmMode :=
  if c = 0 then some .unknown
  else if c = 1 then some .perSecond
  else if c = 2 then some .perMinute
  else if c = 3 then some .secondsMatch
  else if c = 4 then some .minutesMatch
  else if c = 5 then some .hoursMatch
  else if c = 6 then some .dateMatch
  else if c = 7 then some .dayMatch
  else if c = 8 then some .off
  else none

/-- P_MIN_PATTERN as a flag word (R4). -/
def minPatternWord (p : Config.Params) : BitVec 4 :=
  match p.minPattern with
  | .p1100 => 0b1100
  | .p1010 => 0b1010

end Sys2Proof.Machine
end

