-- ==== Sys2Proof/Machine/Ops.lean ====
section
/-! DEFINITION. The named operations: memory cells, the two transport primitives of rule R7, writing the result
registers (R22, R26), block reset (R220), and the host's reads. The spec has no exception to take (R203). -/

namespace Sys2Proof.Machine

/-- The canonical form: addresses strictly rising and inside the 8-bit address space (R40). -/
def Memory.wf : Memory → Bool
  | [] => true
  | [(a, _)] => a < 256
  | (a, _) :: (b, y) :: rest => a < b && Memory.wf ((b, y) :: rest)

/-- The byte listed at an address. -/
def Memory.find (m : Memory) (a : Nat) : Option Byte :=
  match m with
  | [] => none
  | (k, v) :: rest => if k = a then some v else Memory.find rest a

/-- The memory with one byte written, in canonical form. -/
def Memory.store (m : Memory) (a : Nat) (b : Byte) : Memory :=
  match m with
  | [] => [(a, b)]
  | (k, v) :: rest =>
    if a < k then (a, b) :: (k, v) :: rest
    else if a = k then (a, b) :: rest
    else (k, v) :: Memory.store rest a b

/-- The memory with a sequence of bytes written from an address up: byte `i` to address `a + i` (R7, R43). -/
def Memory.storeBytes (m : Memory) (a : Nat) : List Byte → Memory
  | [] => m
  | b :: bs => Memory.storeBytes (Memory.store m a b) (a + 1) bs

/-- The byte the environment answers for a register address at the next `MemRead` (R46): the snapshot's, or a free
value where the snapshot lists none (log entry 3). -/
def State.answer (s : State) (a : Nat) : Byte :=
  match Memory.find (s.snapshots.headD []) a with
  | some b => b
  | none => Config.chipByte s.draws a (Memory.find s.delivered a)

/-- The `n` bytes the environment answers from address `a` up (R7): byte `i` is the byte at address `a + i`. -/
def State.answers (s : State) (a n : Nat) : List Byte := (List.range n).map fun i => s.answer (a + i)

/-- The burst of `MemRead(base, n)` (R7). -/
def State.readBurst (s : State) (base : Byte) (n : Nat) : Burst := ⟨.read, base, s.answers base.toNat n⟩

/-- `MemRead(base, n)` (R7): the state after it. The snapshot is used up, so that no later read must find it again
(R46), and the burst is put on the burst list (R227). -/
def State.memRead (s : State) (base : Byte) (n : Nat) : State :=
  { s with snapshots := s.snapshots.tail, draws := s.draws + 1, bursts := s.bursts ++ [s.readBurst base n] }

/-- `MemWrite(base, n, v)` (R7): the state after it, `n` the length of `v`. The bytes are delivered to the
environment, whose coming answers need not be these bytes (R46), and the burst is put on the burst list (R227). -/
def State.memWrite (s : State) (base : Byte) (v : List Byte) : State :=
  { s with
    delivered := Memory.storeBytes s.delivered base.toNat v
    bursts := s.bursts ++ [⟨.write, base, v⟩] }

/-- Byte `i` of a burst; 0 beyond its length (R22). -/
def Burst.byte (b : Burst) (i : Nat) : Byte := b.bytes.getD i 0

/-- TXN_DIR of a burst (R22): 1 for a `MemRead`, 2 for a `MemWrite`. -/
def Dir.code : Dir → BitVec 2
  | .read => 1
  | .write => 2

/-- The result registers with a burst recorded in RB0 to RB6 and TXN_DIR, TXN_ADDR, TXN_LEN (R22). -/
def Results.record (r : Results) (b : Burst) : Results :=
  { r with
    rb0 := b.byte 0
    rb1 := b.byte 1
    rb2 := b.byte 2
    rb3 := b.byte 3
    rb4 := b.byte 4
    rb5 := b.byte 5
    rb6 := b.byte 6
    txnDir := b.dir.code
    txnAddr := b.addr
    txnLen := BitVec.ofNat 3 b.bytes.length }

/-- The end of every command: it writes every result register (R26). -/
def State.finish (s : State) (r : Results) : Result := .next { s with out := r }

/-- The end of a command that issues no burst and produces nothing but STATUS. -/
def State.finishStatus (s : State) (status : Byte) : Result := s.finish { Results.zero with status := status }

/-- The end of an encode (R123 to R125, R163): one `MemWrite`, its bytes recorded, every decoded field 0. -/
def State.finishWrite (s : State) (base : Byte) (v : List Byte) (status : Byte) : Result :=
  (s.memWrite base v).finish (Results.record { Results.zero with status := status } ⟨.write, base, v⟩)

/-- Block reset (R220): every result register 0, no transport access, the parameters unchanged, the environment
not reset (R221). -/
def State.blockReset (s : State) : State := { s with out := Results.zero }

/-- A reset asserted while a command is issued (R222): it is ordered before or after that command, and a free value
says which (log entry 7). -/
def State.orderReset (s : State) (c : Command) : State :=
  { s with
    host := if Config.resetFirst s.draws then .reset :: .issue c :: s.host else .issue c :: .reset :: s.host
    draws := s.draws + 1 }

/-- What the host gets back when it reads a result register (R22, R226), as an unsigned number (R6). -/
def Results.get (r : Results) : ResultReg → Nat
  | .y => r.y.toNat
  | .sec => r.sec.toNat
  | .min => r.min.toNat
  | .hour => r.hour.toNat
  | .wday => r.wday.toNat
  | .day => r.day.toNat
  | .mon => r.mon.toNat
  | .year => r.year.toNat
  | .mode => r.mode.toNat
  | .rb 0 => r.rb0.toNat
  | .rb 1 => r.rb1.toNat
  | .rb 2 => r.rb2.toNat
  | .rb 3 => r.rb3.toNat
  | .rb 4 => r.rb4.toNat
  | .rb 5 => r.rb5.toNat
  | .rb 6 => r.rb6.toNat
  | .txnDir => r.txnDir.toNat
  | .txnAddr => r.txnAddr.toNat
  | .txnLen => r.txnLen.toNat
  | .status => r.status.toNat

/-- What is observed at the end of a run (R227): every result register and the ordered list of bursts. The RTC
register file is not part of it. -/
def State.observation (s : State) : Results × List Burst := (s.out, s.bursts)

end Sys2Proof.Machine
end

