-- ==== Sys2Proof/Machine/Alarm.lean ====
section
/-! DEFINITION. The alarm family (42_alarm.md): ALM_DECODE with the alarm-mode state extractor, and ALM_ENCODE. -/

namespace Sys2Proof.Machine

/-- The first address of an alarm's block (R41). -/
def alarmBase : AlarmNum → Byte
  | .one => Config.a1Base
  | .two => Config.a2Base

/-- The length of an alarm's block (R41). -/
def alarmLen : AlarmNum → Nat
  | .one => Config.a1Len
  | .two => Config.a2Len

/-- The four conceptual bytes (R150): Second, Minute, Hour, Day/Date. -/
structure AlarmBytes where
  c0 : Byte
  c1 : Byte
  c2 : Byte
  c3 : Byte
deriving DecidableEq, Repr

/-- `CB` (R150): the conceptual bytes of an alarm's wire bytes; Alarm 2's byte 0 is synthesised as 0x00. -/
def conceptual (n : AlarmNum) (b : Burst) : AlarmBytes :=
  match n with
  | .one => ⟨b.byte 0, b.byte 1, b.byte 2, b.byte 3⟩
  | .two => ⟨0x00, b.byte 0, b.byte 1, b.byte 2⟩

/-- The flag word (R151): bit i is the match-enable bit of conceptual byte i. -/
def flagWord (c : AlarmBytes) : BitVec 4 :=
  BitVec.ofBool (c.c3.getLsbD 7) ++ BitVec.ofBool (c.c2.getLsbD 7) ++ BitVec.ofBool (c.c1.getLsbD 7)
    ++ BitVec.ofBool (c.c0.getLsbD 7)

/-- DY/DT, bit 6 of the Day/Date byte (R29, R30). -/
def dayDateSelector (c : AlarmBytes) : Bool := c.c3.getLsbD 6

/-- The 5-bit pattern key (R151): DY/DT stands in bit 4 only when the flag word is 0. -/
def patternKey (c : AlarmBytes) : BitVec 5 :=
  if flagWord c = 0b0000 then BitVec.ofBool (dayDateSelector c) ++ 0b0000#4 else (flagWord c).setWidth 5

/-- `CLASSIFY(key, n)` (R152), the alarm-mode state extractor. -/
def classify (p : Config.Params) (key : BitVec 5) (n : AlarmNum) : AlarmMode :=
  let w := key.setWidth 4
  if w = 0b1111 then .perSecond
  else if w = 0b1110 then
    match n with
    | .one => .secondsMatch
    | .two => .perMinute
  else if w = minPatternWord p then .minutesMatch
  else if w = 0b1000 then .hoursMatch
  else if key = 0b00000 then .dateMatch
  else if key = 0b10000 then .dayMatch
  else .unknown

/-- The alarm fields of the conceptual bytes, whatever the mode (R154). -/
def alarmFields (n : AlarmNum) (c : AlarmBytes) : Results :=
  { Results.zero with
    sec := match n with
      | .one => sexagesimalField c.c0
      | .two => 0
    min := sexagesimalField c.c1
    hour := hourField c.c2
    day := if dayDateSelector c then 0 else dayField c.c3
    wday := if dayDateSelector c then weekdayField c.c3 else 0 }

/-- Whether the Off post-correction reclassifies a mode (R153). -/
def offInferred (p : Config.Params) (mode : AlarmMode) (fields : Results) : Bool :=
  p.offInference && (mode = .dateMatch && fields.day = 0 || mode = .dayMatch && fields.wday = 0)

/-- Everything ALM_DECODE produces from one burst for a valid alarm number, but for the burst's own record (R151 to
R155). -/
def alarmResults (p : Config.Params) (n : AlarmNum) (c : AlarmBytes) : Results :=
  let fields := alarmFields n c
  let mode := classify p (patternKey c) n
  let off := offInferred p mode fields
  { fields with mode := modeCode (if off then .off else mode), status := statusOff off }

/-- ALM_DECODE (R155). -/
def execAlmDecode (alm : Byte) (s : State) : Result :=
  match alarmOf alm with
  | none => s.finishStatus statusEalm
  | some n =>
    let b := s.readBurst (alarmBase n) (alarmLen n)
    (s.memRead (alarmBase n) (alarmLen n)).finish ((alarmResults s.params n (conceptual n b)).record b)

/-- `PATTERN(mode)` (R160): the flag word and DY/DT a mode writes; none for Off (all bytes 0x00) and for Unknown,
which has no pattern. -/
def pattern (p : Config.Params) : AlarmMode → Option (BitVec 4 × Bool)
  | .perSecond => some (0b1111, false)
  | .perMinute => some (0b1110, false)
  | .secondsMatch => some (0b1110, false)
  | .minutesMatch => some (minPatternWord p, false)
  | .hoursMatch => some (0b1000, false)
  | .dateMatch => some (0b0000, false)
  | .dayMatch => some (0b0000, true)
  | .off => none
  | .unknown => none

/-- The conceptual bytes of a flag word and DY/DT (R161): 0x80 for a don't-care byte, else the field's `DEC2BCD8`. -/
def patternBytes (wp : BitVec 4) (dy : Bool) (sec min hour wday day : Byte) : AlarmBytes where
  c0 := if wp.getLsbD 0 then 0x80 else dec2bcd8 sec
  c1 := if wp.getLsbD 1 then 0x80 else dec2bcd8 min
  c2 := if wp.getLsbD 2 then 0x80 else dec2bcd8 hour
  c3 := if wp.getLsbD 3 then 0x80 else if dy then 0x40 ||| dec2bcd8 wday else dec2bcd8 day

/-- The encoded conceptual bytes of a recognised mode (R161); `none` for Unknown, which is not recognised (R64). -/
def encodedBytes (p : Config.Params) (mode : AlarmMode) (sec min hour wday day : Byte) : Option AlarmBytes :=
  match mode with
  | .off => some ⟨0x00, 0x00, 0x00, 0x00⟩
  | m => (pattern p m).map fun wd => patternBytes wd.1 wd.2 sec min hour wday day

/-- The wire bytes (R162): all four for Alarm 1; Alarm 2 has no seconds register. -/
def wireBytes (n : AlarmNum) (c : AlarmBytes) : List Byte :=
  match n with
  | .one => [c.c0, c.c1, c.c2, c.c3]
  | .two => [c.c1, c.c2, c.c3]

/-- ALM_ENCODE (R163): the alarm number is tested first, then the mode (R202). -/
def execAlmEncode (alm : Byte) (mode : BitVec 4) (sec min hour wday day : Byte) (s : State) : Result :=
  match alarmOf alm with
  | none => s.finishStatus statusEalm
  | some n =>
    match (modeOfCode mode).bind fun m => encodedBytes s.params m sec min hour wday day with
    | none => s.finishStatus statusEmode
    | some c => s.finishWrite (alarmBase n) (wireBytes n c) statusOk

end Sys2Proof.Machine
end

