-- ==== Sys2Proof/Machine/Bcd.lean ====
section
/-! DEFINITION. The BCD family (40_bcd.md): BCD2DEC and DEC2BCD. -/

namespace Sys2Proof.Machine

/-- BCD2DEC (R104): Y is `BCD2DEC(a)`, no burst, STATUS 0x01. -/
def execBcd2dec (a : Byte) (s : State) : Result :=
  s.finish { Results.zero with y := trunc8 (bcd2dec a), status := statusOk }

/-- DEC2BCD (R105): Y is `DEC2BCD8(a)`, no burst, STATUS 0x01. -/
def execDec2bcd (a : Byte) (s : State) : Result :=
  s.finish { Results.zero with y := dec2bcd8 a, status := statusOk }

end Sys2Proof.Machine
end

