-- ==== Sys2Proof/Machine/Calendar.lean ====
section
/-! DEFINITION. The calendar family (41_calendar.md): CAL_DECODE and the three CAL_ENCODE commands. -/

namespace Sys2Proof.Machine

/-- The calendar fields of the 7-byte block (R120), STATUS 0x01. -/
def calendarFields (b : Burst) : Results :=
  { Results.zero with
    sec := sexagesimalField (b.byte 0)
    min := sexagesimalField (b.byte 1)
    hour := hourField (b.byte 2)
    wday := weekdayField (b.byte 3)
    day := dayField (b.byte 4)
    mon := monthField (b.byte 5)
    year := yearField (b.byte 6) (b.byte 5)
    status := statusOk }

/-- CAL_DECODE (R120). -/
def execCalDecode (s : State) : Result :=
  let b := s.readBurst Config.tdBase Config.tdLen
  (s.memRead Config.tdBase Config.tdLen).finish ((calendarFields b).record b)

/-- `b[0..2]` of CALBYTES (R122): Second, Minute, Hour in 24-hour form. -/
def timeBytes (sec min hour : Byte) : List Byte := [dec2bcd8 sec, dec2bcd8 min, dec2bcd8 hour]

/-- `b[3..6]` of CALBYTES (R122): Weekday normalised, Day, Month with the century flag, Year. -/
def dateBytes (wday day mon : Byte) (year : BitVec 9) : List Byte :=
  [dec2bcd8 (normwd wday), dec2bcd8 day, dec2bcd8 mon ||| (if 100 ≤ year.toNat then 0x80 else 0x00),
    dec2bcd8 (trunc8 (year.toNat % 100))]

/-- CAL_ENCODE.FULL (R123). -/
def execCalEncodeFull (sec min hour wday day mon : Byte) (year : BitVec 9) (s : State) : Result :=
  s.finishWrite Config.tdBase (timeBytes sec min hour ++ dateBytes wday day mon year)
    (statusWeekday (weekdayChanged wday))

/-- CAL_ENCODE.TIME (R124). -/
def execCalEncodeTime (sec min hour : Byte) (s : State) : Result :=
  s.finishWrite Config.timeBase (timeBytes sec min hour) statusOk

/-- CAL_ENCODE.DATE (R125). -/
def execCalEncodeDate (wday day mon : Byte) (year : BitVec 9) (s : State) : Result :=
  s.finishWrite Config.dateBase (dateBytes wday day mon year) (statusWeekday (weekdayChanged wday))

end Sys2Proof.Machine
end

