-- ==== Sys2Proof/Machine/Dispatch.lean ====
section
/-! DEFINITION. The one match from instructions to their meanings. -/

namespace Sys2Proof.Machine

/-- What an instruction does. -/
def exec (i : Instr) (s : State) : Host.Outcome State Fault Refusal :=
  match i with
  | .bcd2dec a => Sys2Proof.Machine.execBcd2dec a s
  | .dec2bcd a => Sys2Proof.Machine.execDec2bcd a s
  | .calDecode => Sys2Proof.Machine.execCalDecode s
  | .calEncodeFull sec min hour wday day mon year => Sys2Proof.Machine.execCalEncodeFull sec min hour wday day mon year s
  | .calEncodeTime sec min hour => Sys2Proof.Machine.execCalEncodeTime sec min hour s
  | .calEncodeDate wday day mon year => Sys2Proof.Machine.execCalEncodeDate wday day mon year s
  | .almDecode alm => Sys2Proof.Machine.execAlmDecode alm s
  | .almEncode alm mode sec min hour wday day => Sys2Proof.Machine.execAlmEncode alm mode sec min hour wday day s

end Sys2Proof.Machine
end

