-- ==== Sys2Proof/Machine/Reserved.lean ====
section
/-! DEFINITION. The reserved command words (R66): a defined no-op, no row of the opcode table. -/

namespace Sys2Proof.Machine

/-- A reserved command word (R66): no transport access, every result register 0, STATUS 0x03. -/
def execReserved (s : State) : Result := s.finishStatus statusEcmd

end Sys2Proof.Machine
end

