-- ==== Sys2Proof/Machine/Command.lean ====
section
/-! DEFINITION. Running one command: decode, then execute. -/

namespace Sys2Proof.Machine

/-- A command run to its end: decoded with its ports sampled (R26, R67), then executed. -/
def runCommand (c : Command) (s : State) : Result :=
  match decode c with
  | .command i => exec i s
  | .reserved _ => execReserved s

end Sys2Proof.Machine
end

