-- ==== Sys2Proof/Machine/Step.lean ====
section
/-! DEFINITION. One step: the host's next move (R226). A command is one atomic step (R26). -/

namespace Sys2Proof.Machine

/-- One step. With no host move to make, the block does nothing: it "never starts an action of its own" (R20; log
entry 1). -/
def step (s : State) : Host.Outcome State Fault Refusal :=
  match s.host with
  | [] => .next s
  | .issue c :: rest => runCommand c { s with host := rest }
  | .reset :: rest => .next (State.blockReset { s with host := rest })
  | .issueWithReset c :: rest => .next (State.orderReset { s with host := rest } c)
  | .read _ :: rest => .next { s with host := rest }

/-- The state with one command placed as the host's next move: the table word, every port 0 (log entry 11). -/
def State.withFetchWord (s : State) (nbits w : Nat) : State :=
  { s with host := .issue ⟨trunc8 (w % 2 ^ nbits), Ports.zero⟩ :: s.host }

end Sys2Proof.Machine
end

