-- ==== Sys2Proof/Machine/Assembler.lean ====
section
/-! DEFINITION. The text form of a command (R69) and of the pseudo-commands (R70), read into commands. Lexical
points the spec leaves open are in log entry 10. -/

namespace Sys2Proof.Machine

/-- The pieces of a text between separators. -/
def pieces (sep : Char → Bool) : List Char → List (List Char)
  | [] => [[]]
  | c :: cs =>
    if sep c then [] :: pieces sep cs
    else match pieces sep cs with
      | [] => [[c]]
      | w :: ws => (c :: w) :: ws

/-- A digit's value in a base of at most 16: its place among the base's digits, either case (log entry 10). -/
def digitValue (base : Nat) (c : Char) : Option Nat :=
  ["0123456789abcdef", "0123456789ABCDEF"].findSome? fun digits => (digits.toList.take base).idxOf? c

/-- A number from its digits, most significant first. -/
def digitsValue (base acc : Nat) : List Char → Option Nat
  | [] => some acc
  | c :: cs => (digitValue base c).bind fun d => digitsValue base (acc * base + d) cs

/-- "a decimal number, a `0x` hexadecimal number" (R69). -/
def readNumber : List Char → Option Nat
  | [] => none
  | '0' :: 'x' :: c :: cs => digitsValue 16 0 (c :: cs)
  | c :: cs => digitsValue 10 0 (c :: cs)

/-- A mode name of rule R64, as its code. -/
def readModeName (w : List Char) : Option Nat :=
  if w = "Unknown".toList then some 0
  else if w = "PerSecond".toList then some 1
  else if w = "PerMinute".toList then some 2
  else if w = "SecondsMatch".toList then some 3
  else if w = "MinutesMatch".toList then some 4
  else if w = "HoursMatch".toList then some 5
  else if w = "DateMatch".toList then some 6
  else if w = "DayMatch".toList then some 7
  else if w = "Off".toList then some 8
  else none

/-- A mode value: a mode name or a number (R69). -/
def readMode (w : List Char) : Option Nat :=
  match readModeName w with
  | some n => some n
  | none => readNumber w

/-- A port name of rule R69. -/
def readPort (w : List Char) : Option Port :=
  if w = "a".toList then some .a
  else if w = "sec".toList then some .sec
  else if w = "min".toList then some .min
  else if w = "hour".toList then some .hour
  else if w = "wday".toList then some .wday
  else if w = "day".toList then some .day
  else if w = "mon".toList then some .mon
  else if w = "year".toList then some .year
  else if w = "alm".toList then some .alm
  else if w = "mode".toList then some .mode
  else none

/-- `<port>=<value>` (R69). -/
def readSet (w : List Char) : Option (Port × Nat) :=
  match pieces (· = '=') w with
  | [p, v] =>
    (readPort p).bind fun port =>
      (if port = .mode then readMode v else readNumber v).map fun n => (port, n)
  | _ => none

/-- A list of words, all of which must be read. -/
def readAll {α : Type} (f : List Char → Option α) : List (List Char) → Option (List α)
  | [] => some []
  | w :: ws => (f w).bind fun x => (readAll f ws).map fun xs => x :: xs

/-- A mnemonic of rule R61, "with the dot as written". -/
def readMnemonic (w : List Char) : Option Mnemonic :=
  if w = "BCD2DEC".toList then some .bcd2dec
  else if w = "DEC2BCD".toList then some .dec2bcd
  else if w = "CAL_DECODE".toList then some .calDecode
  else if w = "CAL_ENCODE.FULL".toList then some .calEncodeFull
  else if w = "CAL_ENCODE.TIME".toList then some .calEncodeTime
  else if w = "CAL_ENCODE.DATE".toList then some .calEncodeDate
  else if w = "ALM_DECODE".toList then some .almDecode
  else if w = "ALM_ENCODE".toList then some .almEncode
  else none

/-- The pseudo-command a name and its comma-separated arguments stand for (R70). -/
def readPseudo (name : List Char) (args : List (List Char)) : Option Pseudo :=
  if name = "SET_ALARM".toList then
    match args with
    | n :: m :: rest =>
      (readNumber n).bind fun n' => (readMode m).bind fun m' => (readAll readSet rest).map fun r => .setAlarm n' m' r
    | _ => none
  else
    (readAll readNumber args).bind fun vs =>
      match vs with
      | [] => if name = "READ_TIME".toList then some .readTime else none
      | [n] =>
        if name = "READ_ALARM".toList then some (.readAlarm n)
        else if name = "ALARM_OFF".toList then some (.alarmOff n)
        else none
      | [x, y, z] => if name = "SET_TIME".toList then some (.setTime x y z) else none
      | [wd, d, mo, y] => if name = "SET_DATE".toList then some (.setDate wd d mo y) else none
      | [s, m, h, wd, d, mo, y] =>
        if name = "SET_DATETIME".toList then some (.setDatetime s m h wd d mo y) else none
      | _ => none

/-- The words of a line: what stands before a `;`, between blanks (R69). -/
def lineWords (text : List Char) : List (List Char) :=
  (pieces (fun c => c = ' ' || c = '\t' || c = '\r') (text.takeWhile (· ≠ ';'))).filter fun w => w ≠ []

/-- A line from its words: a mnemonic with its assignments, `RESERVED 0x<hh>`, or a pseudo-command.
DESIGN CHOICE (log entry 10): R69 writes two digits `<hh>`; any number of hex digits is read here, `0x7` and `0x0007`
as `0x07`, as long as the value is a reserved word. DESIGN CHOICE (log entry 10): no port assignment follows it. -/
def readWords : List (List Char) → Option Line
  | [] => none
  | h :: ws =>
    match readMnemonic h with
    | some m => (readAll readSet ws).map fun sets => ⟨.mnemonic m, sets⟩
    | none =>
      if h = "RESERVED".toList then
        match ws with
        | [w] => if w.take 2 = "0x".toList then (readNumber w).map fun n => ⟨.reserved n, []⟩ else none
        | _ => none
      else
        match ws with
        | [] => (readPseudo h []).map Pseudo.line
        | [args] => (readPseudo h (pieces (· = ',') args)).map Pseudo.line
        | _ => none

/-- The command one line of text stands for (R69). -/
def assembleLine (text : List Char) : Option Command := (readWords (lineWords text)).bind Line.command

/-- "A program is a sequence of such lines, executed in order, one command per step" (R70). A line with no word on
it is no command. -/
def assemble (text : String) : Option (List Command) :=
  readAll assembleLine ((pieces (· = '\n') text.toList).filter fun l => lineWords l ≠ [])

end Sys2Proof.Machine
end

