-- ==== Sys2Proof/Safety.lean ====
section
/-! DEFINITION. The terms in which statements speak of a safe machine: legal bursts (R42), result registers as the
spec lets them be, and the invariant that every step keeps. -/

namespace Sys2Proof.Machine

/-- The bursts the block may issue: the (address, length) pairs of rule R42, in the directions of rule R41's
commands. -/
def legalBursts : List (Dir × Byte × Nat) :=
  [(.read, 0x00, 7), (.read, 0x07, 4), (.read, 0x0B, 3),
    (.write, 0x00, 7), (.write, 0x00, 3), (.write, 0x03, 4), (.write, 0x07, 4), (.write, 0x0B, 3)]

/-- A burst the block may issue (R42). -/
abbrev Burst.Legal (b : Burst) : Prop := (b.dir, b.addr, b.bytes.length) ∈ legalBursts

/-- An address inside the bytes of a burst (R43). -/
abbrev Burst.Covers (b : Burst) (a : Nat) : Prop := b.addr.toNat ≤ a ∧ a < b.addr.toNat + b.bytes.length

/-- The decoded fields stay in the ranges decode can produce (R63, R100, R103, R120), MODE is a code of R64. -/
abbrev Results.InRange (r : Results) : Prop :=
  r.sec.toNat ≤ 85 ∧ r.min.toNat ≤ 85 ∧ r.hour.toNat ≤ 45 ∧ r.wday.toNat ≤ 7 ∧ r.day.toNat ≤ 45
    ∧ r.mon.toNat ≤ 25 ∧ r.year.toNat ≤ 265 ∧ r.mode.toNat ≤ 8

/-- At most one of ECMD, EALM and EMODE, and not WDNORM and OFFINF together (R202). -/
abbrev Results.OneOutcome (r : Results) : Prop :=
  ¬ (r.ecmd ∧ r.ealm) ∧ ¬ (r.ecmd ∧ r.emode) ∧ ¬ (r.ealm ∧ r.emode) ∧ ¬ (r.wdnorm ∧ r.offinf)

/-- STATUS bits 7:6 always 0 (R24). -/
abbrev Results.ReservedStatusZero (r : Results) : Prop :=
  r.status.getLsbD 6 = false ∧ r.status.getLsbD 7 = false

/-- VALID is 0 only with every register 0, as reset leaves them (R24, R220). -/
abbrev Results.ZeroUnlessValid (r : Results) : Prop := r.valid = false → r = Results.zero

/-- A reported error leaves every register but STATUS 0 (R66, R155, R163). -/
abbrev Results.ZeroOnError (r : Results) : Prop :=
  r.ecmd ∨ r.ealm ∨ r.emode → r = { Results.zero with status := r.status }

/-- TXN_DIR, TXN_ADDR and TXN_LEN name no burst, or one of rule R42's (R22). -/
abbrev Results.TxnLegal (r : Results) : Prop :=
  (r.txnDir, r.txnAddr, r.txnLen) ∈ ((0, 0, 0) :: legalBursts.map fun b => (b.1.code, b.2.1, BitVec.ofNat 3 b.2.2))

/-- RB[i] is 0 for i not less than the burst length (R22). -/
abbrev Results.RbZeroBeyond (r : Results) : Prop := ∀ i : Fin 7, r.txnLen.toNat ≤ i.val → r.get (.rb i) = 0

/-- Y is produced only without a burst, decoded fields and MODE only by a read (R22). -/
abbrev Results.ProducedByRead (r : Results) : Prop :=
  (r.txnDir ≠ 0 → r.y = 0)
    ∧ (r.txnDir ≠ 1 → r.sec = 0 ∧ r.min = 0 ∧ r.hour = 0 ∧ r.wday = 0 ∧ r.day = 0 ∧ r.mon = 0 ∧ r.year = 0 ∧ r.mode = 0)

/-- WDNORM only with a write of the Weekday byte, OFFINF only with MODE Off (R24). -/
abbrev Results.ReportsFit (r : Results) : Prop :=
  (r.wdnorm → r.txnDir = 2 ∧ (r.txnLen = 7 ∨ r.txnLen = 4 ∧ r.txnAddr = 3)) ∧ (r.offinf → r.txnDir = 1 ∧ r.mode = 8)

/-- The result registers as the spec lets them be. -/
structure Results.Sound (r : Results) : Prop where
  inRange : r.InRange
  oneOutcome : r.OneOutcome
  reservedStatus : r.ReservedStatusZero
  zeroUnlessValid : r.ZeroUnlessValid
  zeroOnError : r.ZeroOnError
  txnLegal : r.TxnLegal
  rbZeroBeyond : r.RbZeroBeyond
  producedByRead : r.ProducedByRead
  reportsFit : r.ReportsFit

/-- Every cell lies in the addresses the block reaches, 0x00 to 0x0D (R42). -/
abbrev Memory.Reached (m : Memory) : Prop := ∀ c ∈ m, c.1 ≤ 0x0D

/-- The invariant of every step. -/
structure State.Inv (s : State) : Prop where
  results : s.out.Sound
  bursts : ∀ b ∈ s.bursts, b.Legal
  deliveredWf : Memory.wf s.delivered = true
  deliveredReached : Memory.Reached s.delivered
  snapshotsWf : ∀ m ∈ s.snapshots, Memory.wf m = true

/-- The bytes a burst delivers to the environment: those of a write. -/
def Burst.deliver (m : Memory) (b : Burst) : Memory :=
  match b.dir with
  | .read => m
  | .write => Memory.storeBytes m b.addr.toNat b.bytes

/-- The delivered bytes are those of the write bursts of the burst list, in order. -/
abbrev State.DeliveredFits (s : State) : Prop := s.delivered = s.bursts.foldl Burst.deliver []

/-- TXN_* and RB0 to RB6 expose the burst of the last command, the last of the burst list (R209). -/
abbrev State.ShowsLastBurst (s : State) : Prop :=
  s.out.txnDir = 0 ∨ ∃ b, s.bursts.getLast? = some b ∧ s.out = s.out.record b

/-- What a command that issues no burst leaves as it was: everything but the result registers. -/
structure QuietEffect (s t : State) : Prop where
  params : t.params = s.params
  host : t.host = s.host
  snapshots : t.snapshots = s.snapshots
  delivered : t.delivered = s.delivered
  bursts : t.bursts = s.bursts
  draws : t.draws = s.draws

/-- What `MemRead(base, n)` and its record do (R7, R22, R43), and what they leave as it was: every delivered byte, the
parameters, the host's moves. One snapshot and one draw are used up. -/
structure ReadEffect (s t : State) (base : Byte) (n : Nat) : Prop where
  burst : t.bursts = s.bursts ++ [⟨.read, base, (List.range n).map fun i => s.answer (base.toNat + i)⟩]
  rb : ∀ i : Fin 7, t.out.get (.rb i) = if i.val < n then (s.answer (base.toNat + i.val)).toNat else 0
  txn : t.out.txnDir = 1 ∧ t.out.txnAddr = base ∧ t.out.txnLen.toNat = n
  noY : t.out.y = 0
  delivered : t.delivered = s.delivered
  snapshots : t.snapshots = s.snapshots.tail
  draws : t.draws = s.draws + 1
  params : t.params = s.params
  host : t.host = s.host

/-- What an encode's `MemWrite(base, v)` and its record do (R7, R22, R43): byte `i` of `v` is delivered to `base + i`
and every other address keeps its byte; Y, the decoded fields and MODE are 0. -/
structure WriteEffect (s t : State) (base : Byte) (v : List Byte) (status : Byte) : Prop where
  burst : t.bursts = s.bursts ++ [⟨.write, base, v⟩]
  rb : ∀ i : Fin 7, t.out.get (.rb i) = (v.getD i.val 0).toNat
  txn : t.out.txnDir = 2 ∧ t.out.txnAddr = base ∧ t.out.txnLen.toNat = v.length
  status : t.out.status = status
  fields : t.out.y = 0 ∧ t.out.sec = 0 ∧ t.out.min = 0 ∧ t.out.hour = 0 ∧ t.out.wday = 0 ∧ t.out.day = 0
    ∧ t.out.mon = 0 ∧ t.out.year = 0 ∧ t.out.mode = 0
  stored : ∀ i, (h : i < v.length) → Memory.find t.delivered (base.toNat + i) = some v[i]
  kept : ∀ a, a < base.toNat ∨ base.toNat + v.length ≤ a → Memory.find t.delivered a = Memory.find s.delivered a
  snapshots : t.snapshots = s.snapshots
  draws : t.draws = s.draws
  params : t.params = s.params
  host : t.host = s.host

/-- The four conceptual bytes each recognised mode code writes, row by row of R160 and R161, from the encoded fields:
`s m h d w` are the `DEC2BCD8` of Second, Minute, Hour, Day and Weekday. Codes 0 and 9 to 15 write none (R64). -/
def alarmRow (p : Config.Params) (code : Nat) (s m h d w : Byte) : Option (List Byte) :=
  match code with
  | 1 => some [0x80, 0x80, 0x80, 0x80]
  | 2 => some [s, 0x80, 0x80, 0x80]
  | 3 => some [s, 0x80, 0x80, 0x80]
  | 4 =>
    match p.minPattern with
    | .p1100 => some [s, m, 0x80, 0x80]
    | .p1010 => some [s, 0x80, h, 0x80]
  | 5 => some [s, m, h, 0x80]
  | 6 => some [s, m, h, d]
  | 7 => some [s, m, h, 0x40 ||| w]
  | 8 => some [0x00, 0x00, 0x00, 0x00]
  | _ => none

/-- The burst each command issues (R42, R47): none for the BCD commands, the reserved words and the commands a bad
alarm number or mode turns away. -/
def commandBurst (c : Command) : Option (Dir × Byte × Nat) :=
  if c.word = 0x02 then some (.read, 0x00, 7)
  else if c.word = 0x03 then some (.write, 0x00, 7)
  else if c.word = 0x0B then some (.write, 0x00, 3)
  else if c.word = 0x13 then some (.write, 0x03, 4)
  else if c.word = 0x04 then
    if c.ports.alm = 1 then some (.read, 0x07, 4) else if c.ports.alm = 2 then some (.read, 0x0B, 3) else none
  else if c.word = 0x05 then
    if c.ports.mode = 0 ∨ 9 ≤ c.ports.mode.toNat then none
    else if c.ports.alm = 1 then some (.write, 0x07, 4) else if c.ports.alm = 2 then some (.write, 0x0B, 3) else none
  else none

/-- The first address and length of each alarm's block, as R41's map gives them. -/
def alarmBlock : AlarmNum → Byte × Byte × Nat
  | .one => (1, 0x07, 4)
  | .two => (2, 0x0B, 3)

/-- A run of `k` steps ends in `t`; no step can stop it (R200). -/
def Runs : Nat → State → State → Prop
  | 0, s, t => s = t
  | k + 1, s, t => ∃ u, step s = .next u ∧ Runs k u t

end Sys2Proof.Machine
end

