-- ==== Sys2Proof/Certificates/Slice0/Obligations.lean ====
section
/-! DEFINITION. The statements about the model, from the spec's numbered rules. -/

open Sys2Proof Sys2Proof.Machine

/-- R220: block reset sets every result register to 0, performs no transport access and keeps the parameters; R221: the
environment is not reset. Both for the machine's first state and for a reset the host makes later. The model's choice:
the burst list is empty in the first state and kept by a later reset (log entry 6), the draw counter and the snapshots
are the model's own fields (log entry 3), so are the delivered bytes (log entry 4) and the host's moves (log entry 1). -/
def Obligations.ResetZeroesEveryResultRegister : Prop :=
  (∀ r, State.reset.out.get r = 0) ∧ State.reset.bursts = [] ∧
  ∀ (s : State) (rest : List HostMove), s.host = .reset :: rest →
    ∃ t, step s = .next t ∧ (∀ r, t.out.get r = 0) ∧ t.params = s.params ∧ t.bursts = s.bursts
      ∧ t.delivered = s.delivered ∧ t.snapshots = s.snapshots ∧ t.draws = s.draws ∧ t.host = rest

/-- The model's choice (log entry 5): State.reset is the instance whose parameters have R4's defaults. -/
def Obligations.ParametersDefault : Prop :=
  minPatternWord State.reset.params = 0b1100 ∧ State.reset.params.offInference = true

/-- A step with a command next runs that command (R26): the decoded instruction by `exec`, a reserved word by
`execReserved`, on the state less that host move. -/
def Obligations.StepRunsTheDecodedCommand : Prop :=
  ∀ (s : State) (c : Command) (rest : List HostMove), s.host = .issue c :: rest →
    (∀ i, decode c = .command i → step s = exec i { s with host := rest })
    ∧ (∀ w, decode c = .reserved w → step s = execReserved { s with host := rest })

/-- R61 and R67: equality with the eight words decides, and the operands are the ports the rows of R62 name. -/
def Obligations.DecodeComparesWithTheEightWords : Prop :=
  ∀ p : Ports,
    decode ⟨0b00000000, p⟩ = .command (.bcd2dec p.a)
    ∧ decode ⟨0b00000001, p⟩ = .command (.dec2bcd p.a)
    ∧ decode ⟨0b00000010, p⟩ = .command .calDecode
    ∧ decode ⟨0b00000011, p⟩ = .command (.calEncodeFull p.sec p.min p.hour p.wday p.day p.mon p.year)
    ∧ decode ⟨0b00001011, p⟩ = .command (.calEncodeTime p.sec p.min p.hour)
    ∧ decode ⟨0b00010011, p⟩ = .command (.calEncodeDate p.wday p.day p.mon p.year)
    ∧ decode ⟨0b00000100, p⟩ = .command (.almDecode p.alm)
    ∧ decode ⟨0b00000101, p⟩ = .command (.almEncode p.alm p.mode p.sec p.min p.hour p.wday p.day)
    ∧ ∀ w : Byte, w ≠ 0x00 → w ≠ 0x01 → w ≠ 0x02 → w ≠ 0x03 → w ≠ 0x0B → w ≠ 0x13 → w ≠ 0x04 → w ≠ 0x05 →
      decode ⟨w, p⟩ = .reserved w

/-- Decoding an encoded instruction gives it back, with every operand at every value of its port; a command that
decodes to an instruction is that instruction's encoding, but for the ports its row does not name. -/
def Obligations.DecodeUndoesEncode : Prop :=
  (∀ i, decode (encode i) = .command i)
  ∧ ∀ c i, decode c = .command i → (encode i).word = c.word ∧ decode ⟨c.word, (encode i).ports⟩ = decode c

/-- R66 with R60 and R65: the reserved words are those with OP 0b110 or 0b111, with RSV nonzero, with SC nonzero and OP
other than 0b011, or with SC 0b11 and OP 0b011; a reserved command issues no burst, and leaves every result register
0 but STATUS 0x03. -/
def Obligations.ReservedWordsDoNothingButSetEcmd : Prop :=
  (∀ w : Byte, w ∉ [0x00, 0x01, 0x02, 0x03, 0x0B, 0x13, 0x04, 0x05] ↔
    (w.extractLsb' 0 3 = 0b110 ∨ w.extractLsb' 0 3 = 0b111 ∨ w.extractLsb' 5 3 ≠ 0
      ∨ (w.extractLsb' 3 2 ≠ 0b00 ∧ w.extractLsb' 0 3 ≠ 0b011)
      ∨ (w.extractLsb' 3 2 = 0b11 ∧ w.extractLsb' 0 3 = 0b011)))
  ∧ ∀ (s : State) (c : Command) (rest : List HostMove), s.host = .issue c :: rest →
    c.word ∉ [0x00, 0x01, 0x02, 0x03, 0x0B, 0x13, 0x04, 0x05] →
    step s = .next { s with host := rest, out := { Results.zero with status := 0x03 } }

/-- R104 with R100: BCD2DEC leaves the natural number `(a / 16) * 10 + a % 16` in Y, unwrapped, STATUS 0x01, every other
result register 0, and nothing else changed. -/
def Obligations.Bcd2decResult : Prop :=
  ∀ (a : Byte) (s : State), ∃ t, exec (.bcd2dec a) s = .next t ∧ QuietEffect s t
    ∧ t.out.y.toNat = a.toNat / 16 * 10 + a.toNat % 16 ∧ t.out = { Results.zero with y := t.out.y, status := 0x01 }

/-- R105 with R101 and R102: DEC2BCD leaves the low 8 bits of `(a / 10) * 16 + a % 10` in Y, STATUS 0x01, every other
result register 0, and nothing else changed. -/
def Obligations.Dec2bcdResult : Prop :=
  ∀ (a : Byte) (s : State), ∃ t, exec (.dec2bcd a) s = .next t ∧ QuietEffect s t
    ∧ t.out.y.toNat = (a.toNat / 10 * 16 + a.toNat % 10) % 256
    ∧ t.out = { Results.zero with y := t.out.y, status := 0x01 }

/-- R106 (a) and (b): the identity holds for 0..159 (so for 0..99) and fails for 160..255. Its clause (c) as R100 and
R102 give it (log entry 13): DEC2BCD8 undoes BCD2DEC exactly when the low nibble is at most 9. -/
def Obligations.BcdConversionLaws : Prop :=
  (∀ v : Byte, bcd2dec (dec2bcd8 v) = v.toNat ↔ v.toNat < 160)
  ∧ ∀ b : Byte, dec2bcd8 (BitVec.ofNat 8 (bcd2dec b)) = b ↔ b.toNat % 16 ≤ 9

/-- R106 as written, all three clauses. Clause (c) says "exactly when both nibbles of b are at most 9", which R100 and
R102 refute: `BCD2DEC(0xA0) = 100` and `DEC2BCD8(100) = 0xA0` (log entry 13). Expected to fail. -/
def Obligations.BcdConversionLawsAsWritten : Prop :=
  (∀ v : Byte, v.toNat ≤ 99 → bcd2dec (dec2bcd8 v) = v.toNat)
  ∧ (∀ v : Byte, bcd2dec (dec2bcd8 v) = v.toNat ↔ v.toNat < 160)
  ∧ ∀ b : Byte, dec2bcd8 (BitVec.ofNat 8 (bcd2dec b)) = b ↔ b.toNat / 16 ≤ 9 ∧ b.toNat % 16 ≤ 9

/-- R103: the hour rule, in tens and units, bit 7 never read; its largest values and the 12 AM and 12 PM cases. -/
def Obligations.HourRule : Prop :=
  (∀ b : Byte,
    (b.getLsbD 6 = true → hourdec b = b.toNat % 32 / 16 * 10 + b.toNat % 16 + if b.getLsbD 5 then 12 else 0)
    ∧ (b.getLsbD 6 = false → hourdec b = b.toNat % 64 / 16 * 10 + b.toNat % 16)
    ∧ hourdec (b ^^^ 0x80) = hourdec b ∧ hourdec b ≤ 45 ∧ (b.getLsbD 6 = true → hourdec b ≤ 37))
  ∧ hourdec 0x52 = 12 ∧ hourdec 0x72 = 24 ∧ hourdec 0x61 = 13 ∧ hourdec 0x40 = 0 ∧ hourdec 0x7F = 37
  ∧ hourdec 0x3F = 45

/-- R120: CAL_DECODE reads the 7 bytes at 0x00 and decodes them, no value wrapped and none rejected. -/
def Obligations.CalDecodeResult : Prop :=
  ∀ s : State, ∃ t, exec .calDecode s = .next t ∧ ReadEffect s t 0x00 7
    ∧ t.out.sec.toNat = bcd2dec (s.answer 0 &&& 0x7F)
    ∧ t.out.min.toNat = bcd2dec (s.answer 1 &&& 0x7F)
    ∧ t.out.hour.toNat = hourdec (s.answer 2)
    ∧ t.out.wday = s.answer 3 &&& 0x07
    ∧ t.out.day.toNat = bcd2dec (s.answer 4 &&& 0x3F)
    ∧ t.out.mon.toNat = bcd2dec (s.answer 5 &&& 0x1F)
    ∧ t.out.year.toNat = bcd2dec (s.answer 6) + (if (s.answer 5).getLsbD 7 then 100 else 0)
    ∧ t.out.mode = 0 ∧ t.out.status = 0x01

/-- R123 with R121 and R122: CAL_ENCODE.FULL writes the seven CALBYTES at 0x00, and reports a normalised weekday. -/
def Obligations.CalEncodeFullResult : Prop :=
  ∀ (sec min hour wday day mon : Byte) (year : BitVec 9) (s : State),
    ∃ t, exec (.calEncodeFull sec min hour wday day mon year) s = .next t
      ∧ WriteEffect s t 0x00
          [dec2bcd8 sec, dec2bcd8 min, dec2bcd8 hour,
            if wday = 0 ∨ wday.toNat > 7 then 0x01 else wday,
            dec2bcd8 day, dec2bcd8 mon ||| (if year.toNat ≥ 100 then 0x80 else 0x00),
            BitVec.ofNat 8 (year.toNat % 100 / 10 * 16 + year.toNat % 10)]
          (if wday = 0 ∨ wday.toNat > 7 then 0x11 else 0x01)

/-- R124: CAL_ENCODE.TIME writes the first three CALBYTES at 0x00; addresses 0x03 and up receive no write, and STATUS
is 0x01. -/
def Obligations.CalEncodeTimeResult : Prop :=
  ∀ (sec min hour : Byte) (s : State), ∃ t, exec (.calEncodeTime sec min hour) s = .next t
    ∧ WriteEffect s t 0x00 [dec2bcd8 sec, dec2bcd8 min, dec2bcd8 hour] 0x01

/-- R125: CAL_ENCODE.DATE writes the last four CALBYTES at 0x03; addresses 0x00 to 0x02 receive no write. -/
def Obligations.CalEncodeDateResult : Prop :=
  ∀ (wday day mon : Byte) (year : BitVec 9) (s : State),
    ∃ t, exec (.calEncodeDate wday day mon year) s = .next t
      ∧ WriteEffect s t 0x03
          [if wday = 0 ∨ wday.toNat > 7 then 0x01 else wday,
            dec2bcd8 day, dec2bcd8 mon ||| (if year.toNat ≥ 100 then 0x80 else 0x00),
            BitVec.ofNat 8 (year.toNat % 100 / 10 * 16 + year.toNat % 10)]
          (if wday = 0 ∨ wday.toNat > 7 then 0x11 else 0x01)

/-- R151 and R152: the mode of every flag word, bit by bit of the four conceptual bytes, for both alarms and both
values of P_MIN_PATTERN. DY/DT counts only when the flag word is 0. -/
def Obligations.ModeOfEveryFlagWord : Prop :=
  ∀ (p : Config.Params) (n : AlarmNum) (c : AlarmBytes),
    classify p (patternKey c) n =
      match c.c3.getLsbD 7, c.c2.getLsbD 7, c.c1.getLsbD 7, c.c0.getLsbD 7 with
      | true, true, true, true => .perSecond
      | true, true, true, false => if n = .one then .secondsMatch else .perMinute
      | true, true, false, false => if p.minPattern = .p1100 then .minutesMatch else .unknown
      | true, false, true, false => if p.minPattern = .p1010 then .minutesMatch else .unknown
      | true, false, false, false => .hoursMatch
      | false, false, false, false => if c.c3.getLsbD 6 then .dayMatch else .dateMatch
      | _, _, _, _ => .unknown

/-- R155 with R150, R153 and R154: a bad alarm number reads nothing and leaves Unknown, zeros and STATUS 0x05; a good one
reads its block, populates the fields, classifies the pattern and makes the Off post-correction. -/
def Obligations.AlmDecodeResult : Prop :=
  (∀ (alm : Byte) (s : State), alm ≠ 1 → alm ≠ 2 →
    exec (.almDecode alm) s = .next { s with out := { Results.zero with status := 0x05 } })
  ∧ ∀ (n : AlarmNum) (s : State),
    let c : AlarmBytes := match n with
      | .one => ⟨s.answer 0x07, s.answer 0x08, s.answer 0x09, s.answer 0x0A⟩
      | .two => ⟨0x00, s.answer 0x0B, s.answer 0x0C, s.answer 0x0D⟩
    let m := classify s.params (patternKey c) n
    ∃ t, exec (.almDecode (alarmBlock n).1) s = .next t
      ∧ ReadEffect s t (alarmBlock n).2.1 (alarmBlock n).2.2
      ∧ t.out.sec.toNat = (if n = .one then bcd2dec (c.c0 &&& 0x7F) else 0)
      ∧ t.out.min.toNat = bcd2dec (c.c1 &&& 0x7F)
      ∧ t.out.hour.toNat = hourdec c.c2
      ∧ t.out.day.toNat = (if c.c3.getLsbD 6 then 0 else bcd2dec (c.c3 &&& 0x3F))
      ∧ t.out.wday.toNat = (if c.c3.getLsbD 6 then bcd2dec (c.c3 &&& 0x07) else 0)
      ∧ t.out.mon = 0 ∧ t.out.year = 0
      ∧ (s.params.offInference = true ∧ (m = .dateMatch ∧ t.out.day = 0 ∨ m = .dayMatch ∧ t.out.wday = 0) →
          t.out.mode = 8 ∧ t.out.status = 0x21)
      ∧ (¬ (s.params.offInference = true ∧ (m = .dateMatch ∧ t.out.day = 0 ∨ m = .dayMatch ∧ t.out.wday = 0)) →
          t.out.mode = modeCode m ∧ t.out.status = 0x01)

/-- R163 with R160 to R162: a bad alarm number, then an unrecognised mode, writes nothing and reports EALM or EMODE; else
the mode's row is written at the alarm's block, Alarm 2 without its Second byte. -/
def Obligations.AlmEncodeResult : Prop :=
  ∀ (alm : Byte) (mode : BitVec 4) (sec min hour wday day : Byte) (s : State),
    (alm ≠ 1 → alm ≠ 2 →
      exec (.almEncode alm mode sec min hour wday day) s = .next { s with out := { Results.zero with status := 0x05 } })
    ∧ (alm = 1 ∨ alm = 2 → (mode = 0 ∨ mode.toNat ≥ 9) →
      exec (.almEncode alm mode sec min hour wday day) s = .next { s with out := { Results.zero with status := 0x09 } })
    ∧ ∀ row, alarmRow s.params mode.toNat (dec2bcd8 sec) (dec2bcd8 min) (dec2bcd8 hour) (dec2bcd8 day) (dec2bcd8 wday)
        = some row →
      (alm = 1 → ∃ t, exec (.almEncode alm mode sec min hour wday day) s = .next t ∧ WriteEffect s t 0x07 row 0x01)
      ∧ (alm = 2 → ∃ t, exec (.almEncode alm mode sec min hour wday day) s = .next t
        ∧ WriteEffect s t 0x0B (row.drop 1) 0x01)

/-- R64: what decode can report, by alarm number and parameter. Codes 9 to 15 are never reported. -/
def Obligations.ModesDecodeCanReport : Prop :=
  ∀ (n : AlarmNum) (s t : State), exec (.almDecode (alarmBlock n).1) s = .next t →
    t.out.mode.toNat ≤ 8
    ∧ (t.out.mode = 1 → n = .one) ∧ (t.out.mode = 2 → n = .two) ∧ (t.out.mode = 3 → n = .one)
    ∧ (t.out.mode = 8 → s.params.offInference = true)

/-- R24 and R202: which command and ports set each STATUS bit. -/
def Obligations.StatusBitsOfEveryCommand : Prop :=
  ∀ (c : Command) (s t : State), runCommand c s = .next t →
    t.out.valid = true
    ∧ (t.out.ecmd = true ↔ c.word ∉ [0x00, 0x01, 0x02, 0x03, 0x0B, 0x13, 0x04, 0x05])
    ∧ (t.out.ealm = true ↔ (c.word = 0x04 ∨ c.word = 0x05) ∧ c.ports.alm ≠ 1 ∧ c.ports.alm ≠ 2)
    ∧ (t.out.emode = true ↔
        c.word = 0x05 ∧ (c.ports.alm = 1 ∨ c.ports.alm = 2) ∧ (c.ports.mode = 0 ∨ c.ports.mode.toNat ≥ 9))
    ∧ (t.out.wdnorm = true ↔ (c.word = 0x03 ∨ c.word = 0x13) ∧ (c.ports.wday = 0 ∨ c.ports.wday.toNat > 7))
    ∧ (t.out.offinf = true ↔ c.word = 0x04 ∧ t.out.mode = 8)
    ∧ t.out.status.getLsbD 6 = false ∧ t.out.status.getLsbD 7 = false
    ∧ t.out.OneOutcome

/-- R42 and R47: a command issues at most one burst, of the direction, address and length its word, alarm number and
mode give, and no other. -/
def Obligations.BurstOfEveryCommand : Prop :=
  ∀ (c : Command) (s : State), ∃ t, runCommand c s = .next t ∧
    match commandBurst c with
    | none => t.bursts = s.bursts ∧ t.out.txnDir = 0
    | some (d, a, n) => ∃ b, t.bursts = s.bursts ++ [b] ∧ b.dir = d ∧ b.addr = a ∧ b.bytes.length = n ∧ b.Legal

/-- R200 and R203: every step completes; none faults and none is refused. -/
def Obligations.EveryStepCompletes : Prop := ∀ s : State, ∃ t, step s = .next t

/-- R21 and R26: the results of a command and its burst depend only on the command, the parameters and the bytes the
environment answers to the command's own read, if it makes one: not on the result registers, on other addresses or on
anything an earlier command did, an earlier read included. -/
def Obligations.CommandsForgetTheirPast : Prop :=
  ∀ (c : Command) (s u : State), s.params = u.params →
    (∀ base n, commandBurst c = some (.read, base, n) →
      ∀ i < n, s.answer (base.toNat + i) = u.answer (base.toNat + i)) →
    ∃ t v bs, runCommand c s = .next t ∧ runCommand c u = .next v ∧ t.out = v.out
      ∧ t.bursts = s.bursts ++ bs ∧ v.bursts = u.bursts ++ bs

/-- R46: whatever was delivered before, the environment may answer any bytes at all to the next read, and again any
bytes, equal or not, to the one after it. -/
def Obligations.ReadsAdmitAnyBytes : Prop :=
  ∀ (s : State) (f g : Nat → Byte) (base : Byte) (n : Nat), ∃ snaps : List Memory,
    (∀ m ∈ snaps, Memory.wf m = true)
    ∧ (∀ a < 256, ({ s with snapshots := snaps } : State).answer a = f a)
    ∧ ∀ a < 256, (({ s with snapshots := snaps } : State).memRead base n).answer a = g a

/-- R28 and R120: the bits the calendar decode masks off never affect a decoded field. -/
def Obligations.MaskedBitsNeverMatter : Prop :=
  ∀ s u t v : State,
    s.answer 0 &&& 0x7F = u.answer 0 &&& 0x7F → s.answer 1 &&& 0x7F = u.answer 1 &&& 0x7F →
    s.answer 2 &&& 0x7F = u.answer 2 &&& 0x7F → s.answer 3 &&& 0x07 = u.answer 3 &&& 0x07 →
    s.answer 4 &&& 0x3F = u.answer 4 &&& 0x3F → s.answer 5 &&& 0x9F = u.answer 5 &&& 0x9F → s.answer 6 = u.answer 6 →
    exec .calDecode s = .next t → exec .calDecode u = .next v →
    t.out.sec = v.out.sec ∧ t.out.min = v.out.min ∧ t.out.hour = v.out.hour ∧ t.out.wday = v.out.wday
      ∧ t.out.day = v.out.day ∧ t.out.mon = v.out.mon ∧ t.out.year = v.out.year

/-- R126: the calendar round trip. A valid CalendarTime written by CAL_ENCODE.FULL, its seven bytes answered to a
CAL_DECODE, decodes to itself; any invalid weekday decodes to 1. -/
def Obligations.CalendarRoundTrip : Prop :=
  ∀ (sec min hour wday day mon : Byte) (year : BitVec 9) (s : State),
    sec.toNat ≤ 59 → min.toNat ≤ 59 → hour.toNat ≤ 23 → 1 ≤ day.toNat → day.toNat ≤ 31 → 1 ≤ mon.toNat →
    mon.toNat ≤ 12 → year.toNat ≤ 199 →
    ∃ t b, exec (.calEncodeFull sec min hour wday day mon year) s = .next t ∧ t.bursts = s.bursts ++ [b]
      ∧ ∀ u : State, (∀ i < 7, u.answer i = b.byte i) →
        ∃ v, exec .calDecode u = .next v ∧ v.out.sec = sec ∧ v.out.min = min ∧ v.out.hour = hour
          ∧ (1 ≤ wday.toNat ∧ wday.toNat ≤ 7 → v.out.wday = wday)
          ∧ (wday = 0 ∨ 8 ≤ wday.toNat → v.out.wday = 1)
          ∧ v.out.day = day ∧ v.out.mon = mon ∧ v.out.year = year

/-- R164: the alarm round trip. With the default P_MIN_PATTERN and Off inference on, a valid alarm written by ALM_ENCODE,
its bytes answered to an ALM_DECODE of the same alarm, decodes to its mode, with the fields the mode compares, and 0
in every other field; the modes that do not fit the alarm decode as R164's table says; DateMatch with Day 0 and DayMatch
with Weekday 0 decode as Off; the flag word 0110 decodes as Unknown. -/
def Obligations.AlarmRoundTrip : Prop :=
  (∀ (n : AlarmNum) (mode : BitVec 4) (sec min hour wday day : Byte) (s : State),
    s.params = ⟨.p1100, true⟩ → 1 ≤ mode.toNat → mode.toNat ≤ 8 →
    sec.toNat ≤ 59 → min.toNat ≤ 59 → hour.toNat ≤ 23 → day.toNat ≤ 31 → wday.toNat ≤ 7 →
    ∃ t b, exec (.almEncode (alarmBlock n).1 mode sec min hour wday day) s = .next t ∧ t.bursts = s.bursts ++ [b]
      ∧ ∀ u : State, u.params = ⟨.p1100, true⟩ →
        (∀ i < b.bytes.length, u.answer (b.addr.toNat + i) = b.byte i) →
        ∃ v, exec (.almDecode (alarmBlock n).1) u = .next v
          ∧ v.out.mode = (if mode = 6 ∧ day = 0 ∨ mode = 7 ∧ wday = 0 then 8
              else if n = .two ∧ (mode = 1 ∨ mode = 3) then 2 else if n = .one ∧ mode = 2 then 3 else mode)
          ∧ v.out.sec = (if n = .one ∧ 2 ≤ mode.toNat ∧ mode.toNat ≤ 7 then sec else 0)
          ∧ v.out.min = (if 4 ≤ mode.toNat ∧ mode.toNat ≤ 7 then min else 0)
          ∧ v.out.hour = (if 5 ≤ mode.toNat ∧ mode.toNat ≤ 7 then hour else 0)
          ∧ v.out.day = (if mode = 6 then day else 0)
          ∧ v.out.wday = (if mode = 7 then wday else 0)
          ∧ v.out.mon = 0 ∧ v.out.year = 0)
  ∧ ∀ s : State,
    ((s.answer 0x07).getLsbD 7 = false → (s.answer 0x08).getLsbD 7 = true → (s.answer 0x09).getLsbD 7 = true →
      (s.answer 0x0A).getLsbD 7 = false → ∃ t, exec (.almDecode 1) s = .next t ∧ t.out.mode = 0)
    ∧ ((s.answer 0x0B).getLsbD 7 = true → (s.answer 0x0C).getLsbD 7 = true → (s.answer 0x0D).getLsbD 7 = false →
      ∃ t, exec (.almDecode 2) s = .next t ∧ t.out.mode = 0)

/-- The invariant holds at reset. Its clauses on the delivered bytes, the burst list and the snapshots rest on the
model's choice that these are empty at reset (log entries 3, 4 and 6). -/
def Obligations.InvariantAtReset : Prop :=
  State.reset.Inv ∧ State.reset.DeliveredFits ∧ State.reset.ShowsLastBurst

/-- The invariant of the machine (R22, R24, R42, R63, R64, R202): every step keeps the result registers sound, every
burst legal, the delivered bytes canonical and inside 0x00 to 0x0D, and the snapshots canonical. -/
def Obligations.StepKeepsInvariant : Prop := ∀ s t : State, s.Inv → step s = .next t → t.Inv

/-- Every step keeps the delivered bytes those of the write bursts of the burst list, in order. The field is the model's
choice (log entry 4); across a host reset this holds because the burst list survives it, the model's choice too
(log entry 6), which R227 does not say. -/
def Obligations.StepKeepsDeliveredBytesOfTheBursts : Prop :=
  ∀ s t : State, s.DeliveredFits → step s = .next t → t.DeliveredFits

/-- R209: TXN_* and RB0 to RB6 expose the last command's burst, after every step. -/
def Obligations.StepKeepsLastBurstExposed : Prop :=
  ∀ s t : State, s.ShowsLastBurst → step s = .next t → t.ShowsLastBurst

/-- R4 and R220: no step changes the parameters. -/
def Obligations.StepKeepsParameters : Prop := ∀ s t : State, step s = .next t → t.params = s.params

/-- Frame of every command: the parameters and the host's other moves stay; a delivered byte changes only inside the
address range of the command's own write burst, which its word, alarm number and mode give; snapshots and draws are
used up only by a command that reads. -/
def Obligations.FrameOfEveryCommand : Prop :=
  ∀ (c : Command) (s t : State), runCommand c s = .next t →
    t.params = s.params ∧ t.host = s.host
    ∧ (match commandBurst c with
      | none => QuietEffect s t
      | some (.read, _, _) => t.delivered = s.delivered
      | some (.write, base, n) =>
        t.snapshots = s.snapshots ∧ t.draws = s.draws
          ∧ ∀ a, a < base.toNat ∨ base.toNat + n ≤ a → Memory.find t.delivered a = Memory.find s.delivered a)

/-- R222: a reset asserted while a command is issued is ordered before or after it. Two further steps make both moves, and
the result registers stand as the command leaves them or as the reset leaves them (log entry 7: a free value picks).
That the burst list survives the reset is the model's choice (log entry 6). -/
def Obligations.SimultaneousResetIsOrdered : Prop :=
  ∀ (s : State) (c : Command) (rest : List HostMove), s.host = .issueWithReset c :: rest →
    ∃ t r, Runs 3 s t ∧ runCommand c { s with host := rest, draws := s.draws + 1 } = .next r
      ∧ t.host = rest ∧ t.bursts = r.bursts ∧ (t.out = r.out ∨ t.out = Results.zero)

/-- R226 by inference (log entry 8, DEDUCED): the host's read of a result register changes nothing but the host's list
of moves, so that register too holds what it held. Which value reaches the host is not stated: the move carries none. -/
def Obligations.HostReadsHaveNoEffect : Prop :=
  ∀ (s : State) (r : ResultReg) (rest : List HostMove), s.host = .read r :: rest →
    ∃ t, step s = .next t ∧ t.out.get r = s.out.get r ∧ t = { s with host := rest }

/-- R20: with no host move, the block starts no action of its own (log entry 1). -/
def Obligations.IdleBlockDoesNothing : Prop := ∀ s : State, s.host = [] → step s = .next s

/-- R227 with R51: a program of `k` commands ends after `k` steps, whatever the commands, having issued at most one
legal burst for each, in the step that runs its last command. -/
def Obligations.ProgramsRunToTheirEnd : Prop :=
  ∀ (cs : List Command) (s : State), s.host = cs.map .issue →
    ∃ t bs, Runs cs.length s t ∧ t.host = [] ∧ t.bursts = s.bursts ++ bs ∧ bs.length ≤ cs.length
      ∧ (∀ b ∈ bs, b.Legal)
      ∧ ∀ c, cs.getLast? = some c →
        t.out.valid = true ∧ ∃ u, Runs (cs.length - 1) s u ∧ u.host = [.issue c] ∧ step u = .next t

/-- About the abstract `Line` (R69), not its text: the line `Line.ofCommand` builds for a command is well formed and stands
for exactly that command, for each of the 256 words and every value of every port. For a reserved word it is the model's
choice that an abstract line may set ports beside RESERVED; its text form sets none (log entry 10). -/
def Obligations.EveryCommandHasItsLine : Prop :=
  ∀ c : Command, (Line.ofCommand c).wf = true ∧ (Line.ofCommand c).command = some c

/-- R70: each pseudo-command is exactly one command, with its arguments on the ports its expansion names. -/
def Obligations.PseudoCommandsExpand : Prop :=
  Pseudo.readTime.line.command = some (encode .calDecode)
  ∧ (∀ (s m h wd d mo : Byte) (y : BitVec 9),
    (Pseudo.setDatetime s.toNat m.toNat h.toNat wd.toNat d.toNat mo.toNat y.toNat).line.command
      = some (encode (.calEncodeFull s m h wd d mo y)))
  ∧ (∀ s m h : Byte, (Pseudo.setTime s.toNat m.toNat h.toNat).line.command = some (encode (.calEncodeTime s m h)))
  ∧ (∀ (wd d mo : Byte) (y : BitVec 9),
    (Pseudo.setDate wd.toNat d.toNat mo.toNat y.toNat).line.command = some (encode (.calEncodeDate wd d mo y)))
  ∧ (∀ n : Byte, (Pseudo.readAlarm n.toNat).line.command = some (encode (.almDecode n)))
  ∧ (∀ (n : Byte) (m : BitVec 4) (s mi h wd d : Byte),
    (Pseudo.setAlarm n.toNat m.toNat
      [(.sec, s.toNat), (.min, mi.toNat), (.hour, h.toNat), (.wday, wd.toNat), (.day, d.toNat)]).line.command
      = some (encode (.almEncode n m s mi h wd d)))
  ∧ ∀ n : Byte, (Pseudo.alarmOff n.toNat).line.command = some (encode (.almEncode n 8 0 0 0 0 0))
end

