-- ==== Sys2Proof/Laws/Memory.lean ====
section
/-! SUPPORT. Memory: every operation keeps the canonical form, and a read after a write. -/

namespace Sys2Proof.Machine

/-- Every listed address is above `a`. -/
def Memory.Above (m : Memory) (a : Nat) : Prop := ∀ c ∈ m, a < c.1

theorem Memory.wf_cons {a : Nat} {b : Byte} {m : Memory} :
    Memory.wf ((a, b) :: m) = true ↔ a < 256 ∧ Memory.Above m a ∧ Memory.wf m = true := by
  induction m generalizing a b with
  | nil => simp [Memory.wf, Memory.Above]
  | cons c rest ih =>
    obtain ⟨k, v⟩ := c
    simp only [Memory.wf, Bool.and_eq_true, decide_eq_true_eq]
    constructor
    · rintro ⟨hak, hw⟩
      have h := ih.1 hw
      refine ⟨by omega, ?_, hw⟩
      rintro d (_ | ⟨_, hd⟩)
      · exact hak
      · exact Nat.lt_trans hak (h.2.1 d hd)
    · rintro ⟨_, habove, hw⟩
      exact ⟨habove (k, v) (by simp), hw⟩

theorem Memory.mem_store {m : Memory} {a : Nat} {b : Byte} {c : Host.Cell}
    (h : c ∈ Memory.store m a b) : c = (a, b) ∨ c ∈ m := by
  induction m with
  | nil => simpa [Memory.store] using h
  | cons d rest ih =>
    obtain ⟨k, v⟩ := d
    simp only [Memory.store] at h
    split at h
    · simpa using h
    · split at h
      · rcases List.mem_cons.1 h with h | h
        · exact .inl h
        · exact .inr (List.mem_cons_of_mem _ h)
      · rcases List.mem_cons.1 h with h | h
        · exact .inr (by simp [h])
        · exact (ih h).imp_right (List.mem_cons_of_mem _)

/-- A byte written inside the address space keeps the canonical form. -/
theorem Memory.store_wf {m : Memory} {a : Nat} {b : Byte} (ha : a < 256) (hm : Memory.wf m = true) :
    Memory.wf (Memory.store m a b) = true := by
  induction m with
  | nil => simpa [Memory.store, Memory.wf] using ha
  | cons d rest ih =>
    obtain ⟨k, v⟩ := d
    have hcons := Memory.wf_cons.1 hm
    simp only [Memory.store]
    split
    · rename_i hlt
      refine Memory.wf_cons.2 ⟨ha, ?_, hm⟩
      rintro c (_ | ⟨_, hc⟩)
      · exact hlt
      · exact Nat.lt_trans hlt (hcons.2.1 c hc)
    · split
      · rename_i heq
        exact Memory.wf_cons.2 ⟨ha, heq ▸ hcons.2.1, hcons.2.2⟩
      · refine Memory.wf_cons.2 ⟨hcons.1, ?_, ih hcons.2.2⟩
        intro c hc
        rcases Memory.mem_store hc with rfl | hc
        · simp only; omega
        · exact hcons.2.1 c hc

theorem Memory.storeBytes_wf {m : Memory} {a : Nat} {v : List Byte} (ha : a + v.length ≤ 256)
    (hm : Memory.wf m = true) : Memory.wf (Memory.storeBytes m a v) = true := by
  induction v generalizing m a with
  | nil => exact hm
  | cons b bs ih =>
    simp only [List.length_cons] at ha
    exact ih (by omega) (Memory.store_wf (by omega) hm)

theorem Memory.store_reached {m : Memory} {a : Nat} {b : Byte} (ha : a ≤ 0x0D) (hm : Memory.Reached m) :
    Memory.Reached (Memory.store m a b) := by
  intro c hc
  rcases Memory.mem_store hc with rfl | hc
  · exact ha
  · exact hm c hc

theorem Memory.storeBytes_reached {m : Memory} {a : Nat} {v : List Byte} (ha : a + v.length ≤ 0x0E)
    (hm : Memory.Reached m) : Memory.Reached (Memory.storeBytes m a v) := by
  induction v generalizing m a with
  | nil => exact hm
  | cons b bs ih =>
    simp only [List.length_cons] at ha
    exact ih (by omega) (Memory.store_reached (by omega) hm)

theorem Memory.find_store (m : Memory) (a x : Nat) (b : Byte) :
    Memory.find (Memory.store m a b) x = if x = a then some b else Memory.find m x := by
  induction m with
  | nil => simp [Memory.store, Memory.find, eq_comm]
  | cons d rest ih =>
    obtain ⟨k, v⟩ := d
    simp only [Memory.store]
    split <;> [skip; split] <;> simp only [Memory.find, ih] <;> split_ifs <;> first | rfl | omega

theorem Memory.find_storeBytes_outside {m : Memory} {a x : Nat} {v : List Byte}
    (h : x < a ∨ a + v.length ≤ x) : Memory.find (Memory.storeBytes m a v) x = Memory.find m x := by
  induction v generalizing m a with
  | nil => rfl
  | cons b bs ih =>
    simp only [List.length_cons] at h
    rw [Memory.storeBytes, ih (by omega), Memory.find_store, if_neg (by omega)]

theorem Memory.find_storeBytes_inside {m : Memory} {a i : Nat} {v : List Byte} (h : i < v.length) :
    Memory.find (Memory.storeBytes m a v) (a + i) = some v[i] := by
  induction v generalizing m a i with
  | nil => simp at h
  | cons b bs ih =>
    rw [Memory.storeBytes]
    cases i with
    | zero => rw [Memory.find_storeBytes_outside (by omega), Memory.find_store]; simp
    | succ j =>
      simp only [List.length_cons] at h
      have := ih (m := Memory.store m a b) (a := a + 1) (i := j) (by omega)
      rw [show a + (j + 1) = a + 1 + j by omega, this]
      simp

end Sys2Proof.Machine
end

