-- ==== Sys2Proof/Laws/Operands.lean ====
section
/-! SUPPORT. The BCD conversions and field masks: ranges (R63, R100, R103) and inversion (R106). -/

namespace Sys2Proof.Machine

/-- A fact about every byte is a fact about its two nibbles. -/
theorem forall_byte {p : Byte → Prop} (h : ∀ hi lo : Fin 16, p (BitVec.ofNat 8 (16 * hi.val + lo.val))) (b : Byte) :
    p b := by
  have hb := b.isLt
  have := h ⟨b.toNat / 16, by omega⟩ ⟨b.toNat % 16, by omega⟩
  simpa [Nat.div_add_mod] using this

theorem bcd2dec_le (v : Byte) : bcd2dec v ≤ 165 := by
  have := v.isLt
  unfold bcd2dec; omega

theorem sexagesimalField_toNat : ∀ b : Byte,
    (sexagesimalField b).toNat = bcd2dec (b &&& 0x7F) ∧ bcd2dec (b &&& 0x7F) ≤ 85 :=
  forall_byte (by decide)

theorem hourField_toNat : ∀ b : Byte, (hourField b).toNat = hourdec b ∧ hourdec b ≤ 45 :=
  forall_byte (by decide)

theorem weekdayField_eq : ∀ b : Byte, weekdayField b = b &&& 0x07 ∧ (weekdayField b).toNat ≤ 7 :=
  forall_byte (by decide)

theorem dayField_toNat : ∀ b : Byte, (dayField b).toNat = bcd2dec (b &&& 0x3F) ∧ bcd2dec (b &&& 0x3F) ≤ 45 :=
  forall_byte (by decide)

theorem monthField_toNat : ∀ b : Byte, (monthField b).toNat = bcd2dec (b &&& 0x1F) ∧ bcd2dec (b &&& 0x1F) ≤ 25 :=
  forall_byte (by decide)

theorem yearField_toNat (y m : Byte) :
    (yearField y m).toNat = bcd2dec y + (if centuryFlag m then 100 else 0) ∧ (yearField y m).toNat ≤ 265 := by
  have h := bcd2dec_le y
  unfold yearField trunc9
  rw [BitVec.toNat_ofNat]
  split <;> constructor <;> omega

theorem bcd2dec_dec2bcd8 : ∀ v : Byte, v.toNat < 160 → bcd2dec (dec2bcd8 v) = v.toNat :=
  forall_byte (by decide)

theorem normwd_range : ∀ w : Byte, 1 ≤ (normwd w).toNat ∧ (normwd w).toNat ≤ 7 :=
  forall_byte (by decide)

theorem modeCode_le (m : AlarmMode) : (modeCode m).toNat ≤ 8 := by cases m <;> decide

theorem modeOfCode_modeCode (m : AlarmMode) : modeOfCode (modeCode m) = some m := by cases m <;> decide

end Sys2Proof.Machine
end

