-- ==== Sys2Proof/Laws/State.lean ====
section
/-! SUPPORT. One lemma per field per named update of State and Results, each true by `rfl`. -/

namespace Sys2Proof.Machine

@[simp] theorem Results.zero_y : Results.zero.y = 0 := rfl
@[simp] theorem Results.zero_sec : Results.zero.sec = 0 := rfl
@[simp] theorem Results.zero_min : Results.zero.min = 0 := rfl
@[simp] theorem Results.zero_hour : Results.zero.hour = 0 := rfl
@[simp] theorem Results.zero_wday : Results.zero.wday = 0 := rfl
@[simp] theorem Results.zero_day : Results.zero.day = 0 := rfl
@[simp] theorem Results.zero_mon : Results.zero.mon = 0 := rfl
@[simp] theorem Results.zero_year : Results.zero.year = 0 := rfl
@[simp] theorem Results.zero_mode : Results.zero.mode = 0 := rfl
@[simp] theorem Results.zero_rb0 : Results.zero.rb0 = 0 := rfl
@[simp] theorem Results.zero_rb1 : Results.zero.rb1 = 0 := rfl
@[simp] theorem Results.zero_rb2 : Results.zero.rb2 = 0 := rfl
@[simp] theorem Results.zero_rb3 : Results.zero.rb3 = 0 := rfl
@[simp] theorem Results.zero_rb4 : Results.zero.rb4 = 0 := rfl
@[simp] theorem Results.zero_rb5 : Results.zero.rb5 = 0 := rfl
@[simp] theorem Results.zero_rb6 : Results.zero.rb6 = 0 := rfl
@[simp] theorem Results.zero_txnDir : Results.zero.txnDir = 0 := rfl
@[simp] theorem Results.zero_txnAddr : Results.zero.txnAddr = 0 := rfl
@[simp] theorem Results.zero_txnLen : Results.zero.txnLen = 0 := rfl
@[simp] theorem Results.zero_status : Results.zero.status = 0 := rfl

@[simp] theorem Results.record_y (r : Results) (b : Burst) : (r.record b).y = r.y := rfl
@[simp] theorem Results.record_sec (r : Results) (b : Burst) : (r.record b).sec = r.sec := rfl
@[simp] theorem Results.record_min (r : Results) (b : Burst) : (r.record b).min = r.min := rfl
@[simp] theorem Results.record_hour (r : Results) (b : Burst) : (r.record b).hour = r.hour := rfl
@[simp] theorem Results.record_wday (r : Results) (b : Burst) : (r.record b).wday = r.wday := rfl
@[simp] theorem Results.record_day (r : Results) (b : Burst) : (r.record b).day = r.day := rfl
@[simp] theorem Results.record_mon (r : Results) (b : Burst) : (r.record b).mon = r.mon := rfl
@[simp] theorem Results.record_year (r : Results) (b : Burst) : (r.record b).year = r.year := rfl
@[simp] theorem Results.record_mode (r : Results) (b : Burst) : (r.record b).mode = r.mode := rfl
@[simp] theorem Results.record_rb0 (r : Results) (b : Burst) : (r.record b).rb0 = b.byte 0 := rfl
@[simp] theorem Results.record_rb1 (r : Results) (b : Burst) : (r.record b).rb1 = b.byte 1 := rfl
@[simp] theorem Results.record_rb2 (r : Results) (b : Burst) : (r.record b).rb2 = b.byte 2 := rfl
@[simp] theorem Results.record_rb3 (r : Results) (b : Burst) : (r.record b).rb3 = b.byte 3 := rfl
@[simp] theorem Results.record_rb4 (r : Results) (b : Burst) : (r.record b).rb4 = b.byte 4 := rfl
@[simp] theorem Results.record_rb5 (r : Results) (b : Burst) : (r.record b).rb5 = b.byte 5 := rfl
@[simp] theorem Results.record_rb6 (r : Results) (b : Burst) : (r.record b).rb6 = b.byte 6 := rfl
@[simp] theorem Results.record_txnDir (r : Results) (b : Burst) : (r.record b).txnDir = b.dir.code := rfl
@[simp] theorem Results.record_txnAddr (r : Results) (b : Burst) : (r.record b).txnAddr = b.addr := rfl
@[simp] theorem Results.record_txnLen (r : Results) (b : Burst) : (r.record b).txnLen = BitVec.ofNat 3 b.bytes.length := rfl
@[simp] theorem Results.record_status (r : Results) (b : Burst) : (r.record b).status = r.status := rfl

@[simp] theorem State.memRead_out (s : State) (base : Byte) (n : Nat) : (s.memRead base n).out = s.out := rfl
@[simp] theorem State.memRead_params (s : State) (base : Byte) (n : Nat) : (s.memRead base n).params = s.params := rfl
@[simp] theorem State.memRead_host (s : State) (base : Byte) (n : Nat) : (s.memRead base n).host = s.host := rfl
@[simp] theorem State.memRead_snapshots (s : State) (base : Byte) (n : Nat) : (s.memRead base n).snapshots = s.snapshots.tail := rfl
@[simp] theorem State.memRead_delivered (s : State) (base : Byte) (n : Nat) : (s.memRead base n).delivered = s.delivered := rfl
@[simp] theorem State.memRead_bursts (s : State) (base : Byte) (n : Nat) : (s.memRead base n).bursts = s.bursts ++ [s.readBurst base n] := rfl
@[simp] theorem State.memRead_draws (s : State) (base : Byte) (n : Nat) : (s.memRead base n).draws = s.draws + 1 := rfl

@[simp] theorem State.memWrite_out (s : State) (base : Byte) (v : List Byte) : (s.memWrite base v).out = s.out := rfl
@[simp] theorem State.memWrite_params (s : State) (base : Byte) (v : List Byte) : (s.memWrite base v).params = s.params := rfl
@[simp] theorem State.memWrite_host (s : State) (base : Byte) (v : List Byte) : (s.memWrite base v).host = s.host := rfl
@[simp] theorem State.memWrite_snapshots (s : State) (base : Byte) (v : List Byte) : (s.memWrite base v).snapshots = s.snapshots := rfl
@[simp] theorem State.memWrite_delivered (s : State) (base : Byte) (v : List Byte) : (s.memWrite base v).delivered = Memory.storeBytes s.delivered base.toNat v := rfl
@[simp] theorem State.memWrite_bursts (s : State) (base : Byte) (v : List Byte) : (s.memWrite base v).bursts = s.bursts ++ [⟨.write, base, v⟩] := rfl
@[simp] theorem State.memWrite_draws (s : State) (base : Byte) (v : List Byte) : (s.memWrite base v).draws = s.draws := rfl

@[simp] theorem State.blockReset_out (s : State) : s.blockReset.out = Results.zero := rfl
@[simp] theorem State.blockReset_params (s : State) : s.blockReset.params = s.params := rfl
@[simp] theorem State.blockReset_host (s : State) : s.blockReset.host = s.host := rfl
@[simp] theorem State.blockReset_snapshots (s : State) : s.blockReset.snapshots = s.snapshots := rfl
@[simp] theorem State.blockReset_delivered (s : State) : s.blockReset.delivered = s.delivered := rfl
@[simp] theorem State.blockReset_bursts (s : State) : s.blockReset.bursts = s.bursts := rfl
@[simp] theorem State.blockReset_draws (s : State) : s.blockReset.draws = s.draws := rfl

@[simp] theorem State.orderReset_out (s : State) (c : Command) : (s.orderReset c).out = s.out := rfl
@[simp] theorem State.orderReset_params (s : State) (c : Command) : (s.orderReset c).params = s.params := rfl
@[simp] theorem State.orderReset_snapshots (s : State) (c : Command) : (s.orderReset c).snapshots = s.snapshots := rfl
@[simp] theorem State.orderReset_delivered (s : State) (c : Command) : (s.orderReset c).delivered = s.delivered := rfl
@[simp] theorem State.orderReset_bursts (s : State) (c : Command) : (s.orderReset c).bursts = s.bursts := rfl
@[simp] theorem State.orderReset_draws (s : State) (c : Command) : (s.orderReset c).draws = s.draws + 1 := rfl

@[simp] theorem State.reset_out : State.reset.out = Results.zero := rfl
@[simp] theorem State.reset_params : State.reset.params = Config.defaultParams := rfl
@[simp] theorem State.reset_host : State.reset.host = [] := rfl
@[simp] theorem State.reset_snapshots : State.reset.snapshots = [] := rfl
@[simp] theorem State.reset_delivered : State.reset.delivered = [] := rfl
@[simp] theorem State.reset_bursts : State.reset.bursts = [] := rfl
@[simp] theorem State.reset_draws : State.reset.draws = 0 := rfl

@[simp] theorem State.withFetchWord_out (s : State) (nbits w : Nat) : (s.withFetchWord nbits w).out = s.out := rfl
@[simp] theorem State.withFetchWord_params (s : State) (nbits w : Nat) : (s.withFetchWord nbits w).params = s.params := rfl
@[simp] theorem State.withFetchWord_host (s : State) (nbits w : Nat) : (s.withFetchWord nbits w).host = .issue ⟨trunc8 (w % 2 ^ nbits), Ports.zero⟩ :: s.host := rfl
@[simp] theorem State.withFetchWord_snapshots (s : State) (nbits w : Nat) : (s.withFetchWord nbits w).snapshots = s.snapshots := rfl
@[simp] theorem State.withFetchWord_delivered (s : State) (nbits w : Nat) : (s.withFetchWord nbits w).delivered = s.delivered := rfl
@[simp] theorem State.withFetchWord_bursts (s : State) (nbits w : Nat) : (s.withFetchWord nbits w).bursts = s.bursts := rfl
@[simp] theorem State.withFetchWord_draws (s : State) (nbits w : Nat) : (s.withFetchWord nbits w).draws = s.draws := rfl

end Sys2Proof.Machine
end

