-- ==== Sys2Proof/Laws/Ops.lean ====
section
/-! SUPPORT. One lemma per shared operation: what it answers, and what a step can do. -/

namespace Sys2Proof.Machine

@[simp] theorem State.finish_eq (s : State) (r : Results) : s.finish r = .next { s with out := r } := rfl

@[simp] theorem State.finishStatus_eq (s : State) (b : Byte) :
    s.finishStatus b = .next { s with out := { Results.zero with status := b } } := rfl

theorem State.finishWrite_eq (s : State) (base : Byte) (v : List Byte) (status : Byte) :
    s.finishWrite base v status =
      .next { s.memWrite base v with
        out := Results.record { Results.zero with status := status } ⟨.write, base, v⟩ } := rfl

@[simp] theorem State.answers_length (s : State) (a n : Nat) : (s.answers a n).length = n := by
  simp [State.answers]

theorem State.answers_getD (s : State) {a n i : Nat} (h : i < n) : (s.answers a n).getD i 0 = s.answer (a + i) := by
  simp [State.answers, List.getD, h]

@[simp] theorem State.readBurst_dir (s : State) (base : Byte) (n : Nat) : (s.readBurst base n).dir = .read := rfl
@[simp] theorem State.readBurst_addr (s : State) (base : Byte) (n : Nat) : (s.readBurst base n).addr = base := rfl
@[simp] theorem State.readBurst_bytes (s : State) (base : Byte) (n : Nat) :
    (s.readBurst base n).bytes = s.answers base.toNat n := rfl

/-- Byte `i` of a read is the byte at address `base + i` (R7, R43). -/
theorem State.readBurst_byte (s : State) (base : Byte) {n i : Nat} (h : i < n) :
    (s.readBurst base n).byte i = s.answer (base.toNat + i) := s.answers_getD h

theorem Burst.byte_beyond (b : Burst) {i : Nat} (h : b.bytes.length ≤ i) : b.byte i = 0 := by
  simp [Burst.byte, List.getD, h]

/-- The two alarms' bursts are legal ones. -/
theorem alarm_read_legal (s : State) (n : AlarmNum) : (s.readBurst (alarmBase n) (alarmLen n)).Legal := by
  cases n <;> simp [Burst.Legal, alarmBase, alarmLen, legalBursts, Config.a1Base, Config.a2Base, Config.a1Len, Config.a2Len]

theorem alarm_write_legal (n : AlarmNum) (c : AlarmBytes) : Burst.Legal ⟨.write, alarmBase n, wireBytes n c⟩ := by
  cases n <;> simp [Burst.Legal, alarmBase, wireBytes, legalBursts, Config.a1Base, Config.a2Base]

/-- Everything an instruction can do: no burst, one legal read, or one legal write; the result registers are then
written, whatever they held. -/
theorem exec_cases (i : Instr) (s : State) :
    (∃ r, exec i s = .next { s with out := r })
    ∨ (∃ base n r, (s.readBurst base n).Legal ∧ exec i s = .next { s.memRead base n with out := r })
    ∨ (∃ base v r, Burst.Legal ⟨.write, base, v⟩ ∧ exec i s = .next { s.memWrite base v with out := r }) := by
  cases i with
  | bcd2dec a => exact .inl ⟨_, rfl⟩
  | dec2bcd a => exact .inl ⟨_, rfl⟩
  | calDecode =>
    exact .inr (.inl ⟨Config.tdBase, Config.tdLen, _, by simp [Burst.Legal, legalBursts, Config.tdBase, Config.tdLen], rfl⟩)
  | calEncodeFull =>
    exact .inr (.inr ⟨Config.tdBase, _, _, by simp [Burst.Legal, legalBursts, Config.tdBase, timeBytes, dateBytes], rfl⟩)
  | calEncodeTime =>
    exact .inr (.inr ⟨Config.timeBase, _, _, by simp [Burst.Legal, legalBursts, Config.timeBase, timeBytes], rfl⟩)
  | calEncodeDate =>
    exact .inr (.inr ⟨Config.dateBase, _, _, by simp [Burst.Legal, legalBursts, Config.dateBase, dateBytes], rfl⟩)
  | almDecode alm =>
    simp only [exec, execAlmDecode]
    split
    · exact .inl ⟨_, rfl⟩
    · exact .inr (.inl ⟨_, _, _, alarm_read_legal s _, rfl⟩)
  | almEncode alm mode sec min hour wday day =>
    simp only [exec, execAlmEncode]
    split
    · exact .inl ⟨_, rfl⟩
    · split
      · exact .inl ⟨_, rfl⟩
      · exact .inr (.inr ⟨_, _, _, alarm_write_legal _ _, rfl⟩)

/-- Everything a step can do: idle, a command, a reset, the order of a simultaneous reset, a host read. -/
theorem step_cases (s : State) :
    (s.host = [] ∧ step s = .next s)
    ∨ (∃ c rest i, s.host = .issue c :: rest ∧ decode c = .command i ∧ step s = exec i { s with host := rest })
    ∨ (∃ c rest, s.host = .issue c :: rest ∧ decode c = .reserved c.word
        ∧ step s = .next { s with host := rest, out := { Results.zero with status := statusEcmd } })
    ∨ (∃ rest, s.host = .reset :: rest ∧ step s = .next { s with host := rest, out := Results.zero })
    ∨ (∃ c rest, s.host = .issueWithReset c :: rest ∧ step s = .next (State.orderReset { s with host := rest } c))
    ∨ (∃ r rest, s.host = .read r :: rest ∧ step s = .next { s with host := rest }) := by
  rcases hh : s.host with _ | ⟨m, rest⟩
  · exact .inl ⟨rfl, by simp [step, hh]⟩
  · refine .inr ?_
    cases m with
    | issue c =>
      cases hm : mnemonicOf c.word with
      | some m =>
        have hd : decode c = .command (sample c.ports m) := by simp [decode, hm]
        exact .inl ⟨c, rest, sample c.ports m, rfl, hd, by simp [step, hh, runCommand, hd]⟩
      | none =>
        have hd : decode c = .reserved c.word := by simp [decode, hm]
        exact .inr (.inl ⟨c, rest, rfl, hd, by simp [step, hh, runCommand, hd, execReserved]⟩)
    | reset => exact .inr (.inr (.inl ⟨rest, rfl, by simp [step, hh, State.blockReset]⟩))
    | issueWithReset c => exact .inr (.inr (.inr (.inl ⟨c, rest, rfl, by simp [step, hh]⟩)))
    | read r => exact .inr (.inr (.inr (.inr ⟨r, rest, rfl, by simp [step, hh]⟩)))

end Sys2Proof.Machine
end

