-- ==== Sys2Proof/Laws/PerInstr.lean ====
section
/-! SUPPORT. The family of per-instruction statements: an instruction's command word is one of the eight legal words
(R61), the one that names it. -/

namespace Sys2Proof.Laws.LegalWord

/-- The word `encode` gives an instruction is legal. -/
def Statement (i : Instr) : Prop := (encode i).word ∈ legalWords

theorem bcd2dec (a : Byte) : Statement (.bcd2dec a) := by simp [Statement, encode]; decide
theorem dec2bcd (a : Byte) : Statement (.dec2bcd a) := by simp [Statement, encode]; decide
theorem calDecode : Statement .calDecode := by simp [Statement, encode]; decide
theorem calEncodeFull (sec min hour wday day mon : Byte) (year : BitVec 9) :
    Statement (.calEncodeFull sec min hour wday day mon year) := by simp [Statement, encode]; decide
theorem calEncodeTime (sec min hour : Byte) : Statement (.calEncodeTime sec min hour) := by
  simp [Statement, encode]; decide
theorem calEncodeDate (wday day mon : Byte) (year : BitVec 9) : Statement (.calEncodeDate wday day mon year) := by
  simp [Statement, encode]; decide
theorem almDecode (alm : Byte) : Statement (.almDecode alm) := by simp [Statement, encode]; decide
theorem almEncode (alm : Byte) (mode : BitVec 4) (sec min hour wday day : Byte) :
    Statement (.almEncode alm mode sec min hour wday day) := by simp [Statement, encode]; decide

end Sys2Proof.Laws.LegalWord
end

