-- ==== Sys2Proof/Tests/Slice0.lean ====
section
/-! SUPPORT. Tests against the vectors of 95_test_vectors.md and the worked words of rule R61, and a witness for the
hypotheses of each statement that has some. -/

namespace Sys2Proof.Tests

open Sys2Proof Sys2Proof.Machine

/-! ## Well-formed lines: each check refuses a term that fails it alone -/

theorem test_wf_value_too_wide :
    (Line.mk (.mnemonic .bcd2dec) [(.a, 256)]).wf = false ∧ (Line.mk (.mnemonic .bcd2dec) [(.a, 255)]).wf = true
      ∧ (Line.mk (.mnemonic .almEncode) [(.mode, 16)]).wf = false
      ∧ (Line.mk (.mnemonic .calEncodeDate) [(.year, 511)]).wf = true := by decide
theorem test_wf_port_twice :
    (Line.mk (.mnemonic .bcd2dec) [(.a, 1), (.a, 1)]).wf = false
      ∧ (Line.mk (.mnemonic .bcd2dec) [(.a, 1), (.sec, 1)]).wf = true := by decide
theorem test_wf_reserved_names_a_legal_word :
    (Line.mk (.reserved 0x05) []).wf = false ∧ (Line.mk (.reserved 0x105) []).wf = false
      ∧ (Line.mk (.reserved 0x07) []).wf = true := by decide

/-! ## Decoding: the words of R61, written RSV SC OP from its table -/

/-- Ports with a different value on each, so that a swapped port shows. -/
def marked : Ports := ⟨1, 2, 3, 4, 5, 6, 7, 8, 9, 10⟩

theorem test_decode_bcd2dec : decode ⟨0b000_00_000, marked⟩ = .command (.bcd2dec 1) := by decide
theorem test_decode_dec2bcd : decode ⟨0b000_00_001, marked⟩ = .command (.dec2bcd 1) := by decide
theorem test_decode_calDecode : decode ⟨0b000_00_010, marked⟩ = .command .calDecode := by decide
theorem test_decode_calEncodeFull :
    decode ⟨0b000_00_011, marked⟩ = .command (.calEncodeFull 2 3 4 5 6 7 8) := by decide
theorem test_decode_calEncodeTime : decode ⟨0b000_01_011, marked⟩ = .command (.calEncodeTime 2 3 4) := by decide
theorem test_decode_calEncodeDate : decode ⟨0b000_10_011, marked⟩ = .command (.calEncodeDate 5 6 7 8) := by decide
theorem test_decode_almDecode : decode ⟨0b000_00_100, marked⟩ = .command (.almDecode 9) := by decide
theorem test_decode_almEncode : decode ⟨0b000_00_101, marked⟩ = .command (.almEncode 9 10 2 3 4 5 6) := by decide

/-- Section 6 of the vectors. -/
theorem test_decode_reserved :
    ∀ w ∈ [0x06, 0x07, 0x08, 0x0C, 0x1B, 0x20, 0x23, 0xFF], decode ⟨w, marked⟩ = .reserved w := by decide

theorem test_encode_words :
    (encode (.calEncodeTime 2 3 4)).word = 0x0B ∧ (encode (.calEncodeDate 5 6 7 8)).word = 0x13
      ∧ (encode (.almEncode 9 10 2 3 4 5 6)).word = 0x05 := by decide

theorem test_table_words :
    decodeTableWord 8 0x00 = some (.bcd2dec 0) ∧ decodeTableWord 8 0x05 = some (.almEncode 0 0 0 0 0 0 0)
      ∧ decodeTableWord 8 0x1B = none := by decide

/-! ## One step of one command, from reset but for the register file it reads -/

/-- One step from reset with a command next, and with these bytes found at an address; what is observed after it. -/
def observe (p : Config.Params) (c : Command) (base : Nat) (found : List Byte) : Option (Results × List Burst) :=
  match step { State.reset with
      params := p, host := [.issue c], snapshots := [Memory.storeBytes [] base found] } with
  | .next t => some t.observation
  | _ => none

/-- The result registers of a command without a burst. -/
def quiet (r : Results) : Option (Results × List Burst) := some (r, [])

/-- The result registers `r` of a command with one burst, the burst recorded in them. -/
def withBurst (r : Results) (d : Dir) (base : Byte) (bytes : List Byte) : Option (Results × List Burst) :=
  some
    ({ r with
        rb0 := bytes.getD 0 0, rb1 := bytes.getD 1 0, rb2 := bytes.getD 2 0, rb3 := bytes.getD 3 0
        rb4 := bytes.getD 4 0, rb5 := bytes.getD 5 0, rb6 := bytes.getD 6 0
        txnDir := match d with
          | .read => 1
          | .write => 2
        txnAddr := base, txnLen := BitVec.ofNat 3 bytes.length },
      [⟨d, base, bytes⟩])

abbrev defaults : Config.Params := ⟨.p1100, true⟩
abbrev z : Results := Results.zero

/-- Section 2 of the vectors: the largest result, and a non-BCD nibble. -/
theorem test_bcd2dec :
    observe defaults (encode (.bcd2dec 0xFF)) 0 [] = quiet { z with y := 165, status := 0x01 }
      ∧ observe defaults (encode (.bcd2dec 0x1A)) 0 [] = quiet { z with y := 20, status := 0x01 } := by decide

/-- Section 2: above 99, and truncation. -/
theorem test_dec2bcd :
    observe defaults (encode (.dec2bcd 100)) 0 [] = quiet { z with y := 0xA0, status := 0x01 }
      ∧ observe defaults (encode (.dec2bcd 255)) 0 [] = quiet { z with y := 0x95, status := 0x01 } := by decide

/-- V1. -/
theorem test_calDecode_example :
    observe defaults (encode .calDecode) 0 [0x30, 0x15, 0x12, 0x03, 0x25, 0x09, 0x23]
      = withBurst
          { z with sec := 30, min := 15, hour := 12, wday := 3, day := 25, mon := 9, year := 23, status := 0x01 }
          .read 0x00 [0x30, 0x15, 0x12, 0x03, 0x25, 0x09, 0x23] := by decide

/-- Section 3.1: every byte 0xFF. -/
theorem test_calDecode_all_ones :
    observe defaults (encode .calDecode) 0 [0xFF, 0xFF, 0xFF, 0xFF, 0xFF, 0xFF, 0xFF]
      = withBurst
          { z with sec := 85, min := 85, hour := 37, wday := 7, day := 45, mon := 25, year := 265, status := 0x01 }
          .read 0x00 [0xFF, 0xFF, 0xFF, 0xFF, 0xFF, 0xFF, 0xFF] := by decide

/-- Section 3.2: Month 19 under the century flag, Weekday 255 normalised. -/
theorem test_calEncodeFull :
    observe defaults (encode (.calEncodeFull 85 99 13 255 45 19 150)) 0 []
      = withBurst { z with status := 0x11 } .write 0x00 [0x85, 0x99, 0x13, 0x01, 0x45, 0x99, 0x50] := by decide

/-- Section 3.2: Month 80 sets the century flag of a year below 100. -/
theorem test_calEncodeFull_month_80 :
    observe defaults (encode (.calEncodeFull 0 0 0 1 1 80 5)) 0 []
      = withBurst { z with status := 0x01 } .write 0x00 [0x00, 0x00, 0x00, 0x01, 0x01, 0x80, 0x05] := by decide

/-- Section 3.3: Weekday 0 is ignored and sets no flag. -/
theorem test_calEncodeTime :
    observe defaults ⟨0x0B, { Ports.zero with min := 30, hour := 13, wday := 0 }⟩ 0 []
      = withBurst { z with status := 0x01 } .write 0x00 [0x00, 0x30, 0x13] := by decide

/-- Section 3.3, the example of R125. -/
theorem test_calEncodeDate :
    observe defaults (encode (.calEncodeDate 0 1 1 100)) 0 []
      = withBurst { z with status := 0x11 } .write 0x03 [0x01, 0x01, 0x81, 0x00] := by decide

/-- V8 (Alarm 1, Unknown, fields still populated) and section 4.2 (Alarm 2, DayMatch). -/
theorem test_almDecode :
    observe defaults (encode (.almDecode 1)) 7 [0x12, 0x85, 0x86, 0x05]
        = withBurst { z with sec := 12, min := 5, hour := 6, day := 5, status := 0x01 } .read 0x07
            [0x12, 0x85, 0x86, 0x05]
      ∧ observe defaults (encode (.almDecode 2)) 11 [0x30, 0x07, 0x43]
        = withBurst { z with min := 30, hour := 7, wday := 3, mode := 7, status := 0x01 } .read 0x0B
            [0x30, 0x07, 0x43] := by decide

/-- V7 step 4 (Off), and the parameter variants of section 4. -/
theorem test_almDecode_off_and_parameters :
    observe defaults (encode (.almDecode 2)) 11 [0x30, 0x07, 0x40]
        = withBurst { z with min := 30, hour := 7, mode := 8, status := 0x21 } .read 0x0B [0x30, 0x07, 0x40]
      ∧ observe ⟨.p1100, false⟩ (encode (.almDecode 1)) 7 [0x00, 0x00, 0x00, 0x40]
        = withBurst { z with mode := 7, status := 0x01 } .read 0x07 [0x00, 0x00, 0x00, 0x40]
      ∧ observe ⟨.p1010, true⟩ (encode (.almDecode 2)) 11 [0x80, 0x07, 0x80]
        = withBurst { z with hour := 7, mode := 4, status := 0x01 } .read 0x0B [0x80, 0x07, 0x80] := by decide

/-- The example of R163, and section 5: Alarm 2 under the other minutes pattern. -/
theorem test_almEncode :
    observe defaults (encode (.almEncode 1 7 0 30 7 3 0)) 0 []
        = withBurst { z with status := 0x01 } .write 0x07 [0x00, 0x30, 0x07, 0x43]
      ∧ observe ⟨.p1010, true⟩ (encode (.almEncode 2 4 45 30 7 3 15)) 0 []
        = withBurst { z with status := 0x01 } .write 0x0B [0x80, 0x07, 0x80] := by decide

/-- Section 5: EALM before EMODE, and EMODE. -/
theorem test_almEncode_errors :
    observe defaults (encode (.almEncode 3 0 45 30 7 3 15)) 0 [] = quiet { z with status := 0x05 }
      ∧ observe defaults (encode (.almEncode 2 15 45 30 7 3 15)) 0 [] = quiet { z with status := 0x09 } := by decide

/-- Section 6. -/
theorem test_reserved : observe defaults ⟨0xFF, marked⟩ 0 [] = quiet { z with status := 0x03 } := by decide

/-- What step answers with a table word placed at reset: the command's word runs first, its ports 0. -/
theorem test_fetch_word_runs :
    step (State.reset.withFetchWord 8 0x01) = .next { State.reset with out := { z with y := 0, status := 0x01 } }
      ∧ step (State.reset.withFetchWord 8 0x04) = .next { State.reset with out := { z with status := 0x05 } } :=
  ⟨rfl, rfl⟩

theorem test_wire_order_of_a_store : Memory.storeBytes [(5, 1), (9, 2)] 4 [7, 8] = [(4, 7), (5, 8), (9, 2)] := by decide

/-! ## The text form (R69, R70) -/

/-- Program P2 of section 7, its first two lines. -/
theorem test_assemble_P2 :
    assemble "SET_ALARM 2,HoursMatch,min=30,hour=7\nREAD_ALARM 2 ; check"
      = some [encode (.almEncode 2 5 0 30 7 0 0), encode (.almDecode 2)] := by decide

/-- Program P3's lines 4 and 5, a value that no 8-bit port carries, and digits outside a number's base. -/
theorem test_assemble_P3 :
    assemble "RESERVED 0x07\nBCD2DEC a=0x59" = some [⟨0x07, Ports.zero⟩, encode (.bcd2dec 0x59)]
      ∧ assemble "BCD2DEC a=256" = none ∧ assemble "BCD2DEC a=1F" = none ∧ assemble "BCD2DEC a=0x1G" = none := by decide

/-- Hexadecimal digits of either case, and log entry 10's reading of RESERVED: any number of digits, no ports. -/
theorem test_assemble_hex_and_reserved :
    assemble "DEC2BCD a=0xfF\nRESERVED 0x7" = some [encode (.dec2bcd 255), ⟨0x07, Ports.zero⟩]
      ∧ assemble "RESERVED 0x07 a=1" = none := by decide

/-! ## Witnesses: a state and operands that meet each statement's hypotheses -/

/-- A state with this host move next and one more to come, after an encode of Alarm 2. -/
def mid (m : HostMove) : State :=
  { State.reset with
    out := { z with rb0 := 0x30, rb1 := 0x07, rb2 := 0x80, txnDir := 2, txnAddr := 0x0B, txnLen := 3, status := 0x01 }
    host := [m, .reset]
    snapshots := [[(7, 0x00), (8, 0x80), (9, 0x80), (10, 0x00), (11, 0x80), (12, 0x80), (13, 0x00)]]
    delivered := [(11, 0x30), (12, 0x07), (13, 0x80)]
    bursts := [⟨.write, 0x0B, [0x30, 0x07, 0x80]⟩] }

theorem witness_ResetZeroesEveryResultRegister : (mid .reset).host = .reset :: [.reset] := rfl

/-- Both clauses of StepRunsTheDecodedCommand: a command and a reserved word. -/
theorem witness_StepRunsTheDecodedCommand :
    (mid (.issue ⟨0x04, marked⟩)).host = .issue ⟨0x04, marked⟩ :: [.reset]
      ∧ decode ⟨0x04, marked⟩ = .command (.almDecode 9)
      ∧ (mid (.issue ⟨0x06, marked⟩)).host = .issue ⟨0x06, marked⟩ :: [.reset]
      ∧ decode ⟨0x06, marked⟩ = .reserved 0x06 := ⟨rfl, by decide, rfl, by decide⟩

theorem witness_DecodeComparesWithTheEightWords :
    ∃ w : Byte, w ≠ 0x00 ∧ w ≠ 0x01 ∧ w ≠ 0x02 ∧ w ≠ 0x03 ∧ w ≠ 0x0B ∧ w ≠ 0x13 ∧ w ≠ 0x04 ∧ w ≠ 0x05 :=
  ⟨0x06, by decide⟩

theorem witness_DecodeUndoesEncode : decode ⟨0x13, marked⟩ = .command (.calEncodeDate 5 6 7 8) := by decide

theorem witness_ReservedWordsDoNothingButSetEcmd :
    (mid (.issue ⟨0x1B, marked⟩)).host = .issue ⟨0x1B, marked⟩ :: [.reset]
      ∧ (0x1B : Byte) ∉ [0x00, 0x01, 0x02, 0x03, 0x0B, 0x13, 0x04, 0x05] := ⟨rfl, by decide⟩

/-- The two forms of an hour byte, at their ends. -/
theorem witness_HourRule :
    (0x40 : Byte).getLsbD 6 = true ∧ (0xFF : Byte).getLsbD 6 = true ∧ (0x00 : Byte).getLsbD 6 = false
      ∧ (0xBF : Byte).getLsbD 6 = false := by decide

theorem witness_BcdConversionLawsAsWritten : (99 : Byte).toNat ≤ 99 ∧ (0 : Byte).toNat ≤ 99 := by decide

/-- Alarm numbers on both sides of the valid two. -/
theorem witness_AlmDecodeResult_bad_number :
    ((0 : Byte) ≠ 1 ∧ (0 : Byte) ≠ 2) ∧ ((3 : Byte) ≠ 1 ∧ (3 : Byte) ≠ 2) ∧ ((255 : Byte) ≠ 1 ∧ (255 : Byte) ≠ 2) := by
  decide

/-- Alarm bytes that Off inference reclassifies, by Day and by Weekday, and bytes it does not. -/
theorem witness_AlmDecodeResult_off :
    (classify defaults (patternKey ⟨0x00, 0x00, 0x00, 0x00⟩) .one = .dateMatch
        ∧ (alarmFields .one ⟨0x00, 0x00, 0x00, 0x00⟩).day = 0)
      ∧ (classify defaults (patternKey ⟨0x00, 0x30, 0x07, 0x48⟩) .two = .dayMatch
        ∧ (alarmFields .two ⟨0x00, 0x30, 0x07, 0x48⟩).wday = 0)
      ∧ (classify defaults (patternKey ⟨0x00, 0x30, 0x07, 0x01⟩) .two = .dateMatch
        ∧ (alarmFields .two ⟨0x00, 0x30, 0x07, 0x01⟩).day ≠ 0) := by decide

/-- Each clause of AlmEncodeResult: a bad number; a bad mode at 0, 9 and 15; the rows of modes 1 and 8. -/
theorem witness_AlmEncodeResult :
    ((3 : Byte) ≠ 1 ∧ (3 : Byte) ≠ 2)
      ∧ ((0 : BitVec 4) = 0 ∧ (9 : BitVec 4).toNat ≥ 9 ∧ (15 : BitVec 4).toNat ≥ 9)
      ∧ alarmRow State.reset.params (1 : BitVec 4).toNat 0x45 0x30 0x07 0x15 0x03 = some [0x80, 0x80, 0x80, 0x80]
      ∧ alarmRow State.reset.params (8 : BitVec 4).toNat 0x45 0x30 0x07 0x15 0x03 = some [0x00, 0x00, 0x00, 0x00] := by
  decide

/-- ALM_DECODE of Alarm 1 and of Alarm 2 answers a next state. -/
theorem witness_ModesDecodeCanReport :
    (∃ t, exec (.almDecode (alarmBlock .one).1) (mid .reset) = .next t)
      ∧ ∃ t, exec (.almDecode (alarmBlock .two).1) (mid .reset) = .next t := ⟨⟨_, rfl⟩, ⟨_, rfl⟩⟩

/-- A command that reads and a reserved word each answer a next state: StatusBitsOfEveryCommand and
FrameOfEveryCommand. -/
theorem witness_StatusBitsOfEveryCommand :
    (∃ t, runCommand ⟨0x02, marked⟩ (mid .reset) = .next t) ∧ ∃ t, runCommand ⟨0xFF, marked⟩ (mid .reset) = .next t :=
  ⟨⟨_, rfl⟩, ⟨_, rfl⟩⟩

theorem witness_FrameOfEveryCommand :
    (∃ t, runCommand (encode (.calEncodeTime 1 2 3)) (mid .reset) = .next t)
      ∧ commandBurst (encode (.calEncodeTime 1 2 3)) = some (.write, 0x00, 3)
      ∧ ((0x03 : Nat) < (0x00 : Byte).toNat ∨ (0x00 : Byte).toNat + 3 ≤ 0x03) := ⟨⟨_, rfl⟩, by decide, by decide⟩

/-- A state whose next read finds these bytes from an address up. -/
def finding (base : Nat) (bytes : List Byte) : State :=
  { State.reset with snapshots := [Memory.storeBytes [] base bytes] }

/-- A state with another past than `finding`'s: an encode and an earlier read, its snapshot used up, behind it; the
coming snapshot lists more than the block of Alarm 2. -/
def past : State :=
  { mid .reset with
    snapshots := [[(10, 0xEE), (11, 0x30), (12, 0x07), (13, 0x43)], [(0, 0x01)]]
    draws := 1 }

/-- Two states with different pasts that answer ALM_DECODE of Alarm 2 alike, and one command without a read, for which
no answer counts. -/
theorem witness_CommandsForgetTheirPast :
    past.params = (finding 11 [0x30, 0x07, 0x43]).params
      ∧ commandBurst (encode (.almDecode 2)) = some (.read, 0x0B, 3)
      ∧ (∀ i < 3, past.answer ((0x0B : Byte).toNat + i)
        = (finding 11 [0x30, 0x07, 0x43]).answer ((0x0B : Byte).toNat + i))
      ∧ (past.draws ≠ State.reset.draws ∧ past.out ≠ State.reset.out ∧ past.bursts ≠ [] ∧ past.delivered ≠ []
        ∧ past.snapshots ≠ (finding 11 [0x30, 0x07, 0x43]).snapshots)
      ∧ commandBurst (encode (.almDecode 3)) = none := by decide

/-- Answers that differ in every masked-off bit, and in no other. -/
theorem witness_MaskedBitsNeverMatter :
    let s := finding 0 [0x30, 0x15, 0x12, 0x03, 0x25, 0x09, 0x23]
    let u := finding 0 [0xB0, 0x95, 0x92, 0xFB, 0xE5, 0x69, 0x23]
    (s.answer 0 &&& 0x7F = u.answer 0 &&& 0x7F ∧ s.answer 1 &&& 0x7F = u.answer 1 &&& 0x7F
        ∧ s.answer 2 &&& 0x7F = u.answer 2 &&& 0x7F ∧ s.answer 3 &&& 0x07 = u.answer 3 &&& 0x07
        ∧ s.answer 4 &&& 0x3F = u.answer 4 &&& 0x3F ∧ s.answer 5 &&& 0x9F = u.answer 5 &&& 0x9F
        ∧ s.answer 6 = u.answer 6)
      ∧ (∃ t, exec .calDecode s = .next t) ∧ ∃ v, exec .calDecode u = .next v :=
  ⟨by decide, ⟨_, rfl⟩, ⟨_, rfl⟩⟩

/-- The largest valid CalendarTime, its bytes found again (section 3.1). -/
theorem witness_CalendarRoundTrip :
    ((59 : Byte).toNat ≤ 59 ∧ (23 : Byte).toNat ≤ 23 ∧ 1 ≤ (31 : Byte).toNat ∧ (31 : Byte).toNat ≤ 31
        ∧ 1 ≤ (12 : Byte).toNat ∧ (12 : Byte).toNat ≤ 12 ∧ (199 : BitVec 9).toNat ≤ 199)
      ∧ (1 ≤ (7 : Byte).toNat ∧ (7 : Byte).toNat ≤ 7 ∧ 8 ≤ (8 : Byte).toNat)
      ∧ ∀ i < 7, (finding 0 [0x59, 0x59, 0x23, 0x07, 0x31, 0x92, 0x99]).answer i
        = (Burst.mk .write 0x00 (timeBytes 59 59 23 ++ dateBytes 7 31 12 199)).byte i := by decide

/-- Modes 1 and 8 at the ends of the fields' ranges, and the bytes of a DayMatch found again. -/
theorem witness_AlarmRoundTrip :
    (State.reset.params = ⟨.p1100, true⟩ ∧ 1 ≤ (1 : BitVec 4).toNat ∧ (8 : BitVec 4).toNat ≤ 8
        ∧ (59 : Byte).toNat ≤ 59 ∧ (23 : Byte).toNat ≤ 23 ∧ (31 : Byte).toNat ≤ 31 ∧ (7 : Byte).toNat ≤ 7)
      ∧ (finding 7 [0x00, 0x30, 0x07, 0x43]).params = ⟨.p1100, true⟩
      ∧ (∀ i < 4, (finding 7 [0x00, 0x30, 0x07, 0x43]).answer ((0x07 : Byte).toNat + i)
        = (Burst.mk .write 0x07 [0x00, 0x30, 0x07, 0x43]).byte i)
      ∧ (((mid .reset).answer 0x07).getLsbD 7 = false ∧ ((mid .reset).answer 0x08).getLsbD 7 = true
        ∧ ((mid .reset).answer 0x09).getLsbD 7 = true ∧ ((mid .reset).answer 0x0A).getLsbD 7 = false)
      ∧ (((mid .reset).answer 0x0B).getLsbD 7 = true ∧ ((mid .reset).answer 0x0C).getLsbD 7 = true
        ∧ ((mid .reset).answer 0x0D).getLsbD 7 = false) := by decide

/-- A state that meets the invariant with a burst, delivered bytes and a snapshot in it, and a step from it. -/
theorem witness_StepKeepsInvariant :
    (mid (.issue ⟨0x02, marked⟩)).Inv ∧ ∃ t, step (mid (.issue ⟨0x02, marked⟩)) = .next t := by
  refine ⟨⟨⟨?_, ?_, ?_, ?_, ?_, ?_, ?_, ?_, ?_⟩, ?_, ?_, ?_, ?_⟩, _, rfl⟩ <;> decide

theorem witness_StepKeepsDeliveredBytesOfTheBursts :
    (mid (.issue ⟨0x03, marked⟩)).DeliveredFits ∧ ∃ t, step (mid (.issue ⟨0x03, marked⟩)) = .next t :=
  ⟨by decide, _, rfl⟩

theorem witness_StepKeepsLastBurstExposed :
    (mid (.issue ⟨0x04, { marked with alm := 2 }⟩)).ShowsLastBurst
      ∧ ∃ t, step (mid (.issue ⟨0x04, { marked with alm := 2 }⟩)) = .next t :=
  ⟨.inr ⟨⟨.write, 0x0B, [0x30, 0x07, 0x80]⟩, by decide, by decide⟩, _, rfl⟩

theorem witness_StepKeepsParameters : ∃ t, step (mid .reset) = .next t := ⟨_, rfl⟩

theorem witness_SimultaneousResetIsOrdered :
    (mid (.issueWithReset ⟨0x05, marked⟩)).host = .issueWithReset ⟨0x05, marked⟩ :: [.reset] := rfl

theorem witness_HostReadsHaveNoEffect : (mid (.read (.rb 6))).host = .read (.rb 6) :: [.reset] := rfl

theorem witness_IdleBlockDoesNothing : ({ mid .reset with host := [] } : State).host = [] := rfl

/-- A program of two commands, and the empty one. -/
theorem witness_ProgramsRunToTheirEnd :
    ({ mid .reset with host := [.issue ⟨0x02, marked⟩, .issue ⟨0xFF, marked⟩] } : State).host
        = [⟨0x02, marked⟩, ⟨0xFF, marked⟩].map .issue
      ∧ [(⟨0x02, marked⟩ : Command), ⟨0xFF, marked⟩].getLast? = some ⟨0xFF, marked⟩
      ∧ State.reset.host = List.map .issue [] := ⟨rfl, rfl, rfl⟩

end Sys2Proof.Tests
end

section
/-! PROOF. The family of 00_scope.md: what a step does to the parameters, to the burst list and to the delivered
bytes, said once (`step_issues`); O30 and O32 follow from it. -/

namespace Sys2Proof.Machine

/-- `t` is `s` after the bursts `bs`, by what the two states show of the transport (R7, R227) and of the instance's
parameters (R4): the bursts end the burst list, their written bytes are delivered in order. -/
structure State.Issues (s t : State) (bs : List Burst) : Prop where
  params : t.params = s.params
  bursts : t.bursts = s.bursts ++ bs
  delivered : t.delivered = bs.foldl Burst.deliver s.delivered

/-- An update of other fields issues no burst. -/
theorem State.Issues.of_unchanged {s t : State} (hp : t.params = s.params) (hb : t.bursts = s.bursts)
    (hd : t.delivered = s.delivered) : s.Issues t [] :=
  ⟨hp, by simpa using hb, hd⟩

theorem State.memRead_issues (s : State) (base : Byte) (n : Nat) : s.Issues (s.memRead base n) [s.readBurst base n] :=
  ⟨rfl, rfl, rfl⟩

theorem State.memWrite_issues (s : State) (base : Byte) (v : List Byte) :
    s.Issues (s.memWrite base v) [⟨.write, base, v⟩] :=
  ⟨rfl, rfl, rfl⟩

/-- Writing the result registers, the end of every command, shows nowhere on the transport. -/
theorem State.Issues.writeResults {s t : State} {bs : List Burst} (h : s.Issues t bs) (r : Results) :
    s.Issues { t with out := r } bs :=
  ⟨h.params, h.bursts, h.delivered⟩

/-- Every instruction completes, and what it shows on the transport are the bursts it issues. -/
theorem exec_issues (i : Instr) (s : State) : ∃ t bs, exec i s = .next t ∧ s.Issues t bs := by
  obtain ⟨r, h⟩ | ⟨base, n, r, -, h⟩ | ⟨base, v, r, -, h⟩ := exec_cases i s
  · exact ⟨_, _, h, .of_unchanged rfl rfl rfl⟩
  · exact ⟨_, _, h, (s.memRead_issues base n).writeResults r⟩
  · exact ⟨_, _, h, (s.memWrite_issues base v).writeResults r⟩

/-- So does every step: a step that runs no instruction issues no burst (R20). -/
theorem step_issues (s : State) : ∃ t bs, step s = .next t ∧ s.Issues t bs := by
  obtain ⟨-, h⟩ | ⟨c, rest, i, -, -, h⟩ | ⟨c, rest, -, -, h⟩ | ⟨rest, -, h⟩ | ⟨c, rest, -, h⟩ | ⟨r, rest, -, h⟩ :=
    step_cases s
  case inr.inl =>
    obtain ⟨t, bs, ht, hp, hb, hd⟩ := exec_issues i { s with host := rest }
    exact ⟨t, bs, h.trans ht, hp, hb, hd⟩
  all_goals exact ⟨_, _, h, .of_unchanged rfl rfl rfl⟩

theorem issues_of_step {s t : State} (h : step s = .next t) : ∃ bs, s.Issues t bs := by
  obtain ⟨u, bs, hu, hi⟩ := step_issues s
  obtain rfl : t = u := by simpa using h.symm.trans hu
  exact ⟨bs, hi⟩

theorem State.Issues.deliveredFits {s t : State} {bs : List Burst} (h : s.Issues t bs) (hs : s.DeliveredFits) :
    t.DeliveredFits :=
  calc t.delivered
      _ = bs.foldl Burst.deliver s.delivered := h.delivered
      _ = bs.foldl Burst.deliver (s.bursts.foldl Burst.deliver []) := by rw [← hs]
      _ = (s.bursts ++ bs).foldl Burst.deliver [] := List.foldl_append.symm
      _ = t.bursts.foldl Burst.deliver [] := by rw [h.bursts]

/-- Settles O30: the bursts a step adds to the list are the bursts whose bytes it delivers. -/
theorem stepKeepsDeliveredBytesOfTheBursts : Obligations.StepKeepsDeliveredBytesOfTheBursts := by
  intro s t hs h
  obtain ⟨bs, hi⟩ := issues_of_step h
  exact hi.deliveredFits hs

/-- Settles O2, by evaluation of the reset state (log entry 5). -/
theorem parametersDefault : Obligations.ParametersDefault := ⟨rfl, rfl⟩

/-- Settles O32: the parameters stay through every kind of step. -/
theorem stepKeepsParameters : Obligations.StepKeepsParameters := by
  intro s t h
  obtain ⟨bs, hi⟩ := issues_of_step h
  exact hi.params

end Sys2Proof.Machine
end

section
/-! PROOF. The family of 10_state.md. What a command is going to do, given the parameters, is said once as a `Plan`
(`runCommand_eq_plan`): no burst, one read, or one write, and what it leaves in the result registers. The commands' frame
(O33), their independence of the past (O23) and the invariant (O29) are read off the plan. -/

namespace Sys2Proof.Machine

/-! ## Plans: what a command does, by its instruction and the parameters alone -/

/-- The result registers of a command without a burst: Y and STATUS, all else 0 (R26). -/
def Results.quiet (y status : Byte) : Results := { Results.zero with y := y, status := status }

/-- What a command does: no burst, one `MemRead` whose bytes `fields` decodes, or one `MemWrite` (R42). -/
inductive Plan where
  | quiet (y status : Byte)
  | read (base : Byte) (n : Nat) (fields : Burst → Results)
  | write (base : Byte) (v : List Byte) (status : Byte)

/-- The plan of an instruction under the parameters of R4. No other part of the state has a say (R21). -/
def planOf (p : Config.Params) : Instr → Plan
  | .bcd2dec a => .quiet (trunc8 (bcd2dec a)) statusOk
  | .dec2bcd a => .quiet (dec2bcd8 a) statusOk
  | .calDecode => .read Config.tdBase Config.tdLen calendarFields
  | .calEncodeFull sec min hour wday day mon year =>
    .write Config.tdBase (timeBytes sec min hour ++ dateBytes wday day mon year) (statusWeekday (weekdayChanged wday))
  | .calEncodeTime sec min hour => .write Config.timeBase (timeBytes sec min hour) statusOk
  | .calEncodeDate wday day mon year =>
    .write Config.dateBase (dateBytes wday day mon year) (statusWeekday (weekdayChanged wday))
  | .almDecode alm =>
    match alarmOf alm with
    | none => .quiet 0 statusEalm
    | some n => .read (alarmBase n) (alarmLen n) fun b => alarmResults p n (conceptual n b)
  | .almEncode alm mode sec min hour wday day =>
    match alarmOf alm with
    | none => .quiet 0 statusEalm
    | some n =>
      match (modeOfCode mode).bind fun m => encodedBytes p m sec min hour wday day with
      | none => .quiet 0 statusEmode
      | some c => .write (alarmBase n) (wireBytes n c) statusOk

/-- The plan of a command, a reserved word's included (R66). -/
def commandPlan (p : Config.Params) (c : Command) : Plan :=
  match decode c with
  | .command i => planOf p i
  | .reserved _ => .quiet 0 statusEcmd

/-- The direction, address and length of the plan's burst, if it has one. -/
def Plan.burst : Plan → Option (Dir × Byte × Nat)
  | .quiet _ _ => none
  | .read base n _ => some (.read, base, n)
  | .write base v _ => some (.write, base, v.length)

/-- The bursts the plan issues from a state. -/
def Plan.bursts (s : State) : Plan → List Burst
  | .quiet _ _ => []
  | .read base n _ => [s.readBurst base n]
  | .write base v _ => [⟨.write, base, v⟩]

/-- What the plan leaves in the result registers. -/
def Plan.results (s : State) : Plan → Results
  | .quiet y status => .quiet y status
  | .read base n fields => (fields (s.readBurst base n)).record (s.readBurst base n)
  | .write base v status => (Results.quiet 0 status).record ⟨.write, base, v⟩

/-- The state after the plan's transport access, if it has one. -/
def Plan.transport (s : State) : Plan → State
  | .quiet _ _ => s
  | .read base n _ => s.memRead base n
  | .write base v _ => s.memWrite base v

/-- The state after the plan. -/
def Plan.run (s : State) (a : Plan) : State := { a.transport s with out := a.results s }

@[simp] theorem Plan.run_out (s : State) (a : Plan) : (a.run s).out = a.results s := rfl

@[simp] theorem Plan.run_host (s : State) (a : Plan) : (a.run s).host = s.host := by cases a <;> rfl

theorem Plan.run_issues (s : State) (a : Plan) : s.Issues (a.run s) (a.bursts s) := by
  cases a with
  | quiet => exact .of_unchanged rfl rfl rfl
  | read base n => exact (s.memRead_issues base n).writeResults _
  | write base v => exact (s.memWrite_issues base v).writeResults _

theorem Plan.run_snapshots_subset (s : State) (a : Plan) : (a.run s).snapshots ⊆ s.snapshots := by
  cases a with
  | quiet => exact List.Subset.refl _
  | read => exact List.tail_subset _
  | write => exact List.Subset.refl _

/-- `planOf` is what `exec` does. -/
theorem exec_eq_plan (i : Instr) (s : State) : exec i s = .next ((planOf s.params i).run s) := by
  cases i with
  | bcd2dec => rfl
  | dec2bcd => rfl
  | calDecode => rfl
  | calEncodeFull => rfl
  | calEncodeTime => rfl
  | calEncodeDate => rfl
  | almDecode alm =>
    simp only [exec, execAlmDecode, planOf]
    cases alarmOf alm <;> rfl
  | almEncode alm mode sec min hour wday day =>
    simp only [exec, execAlmEncode, planOf]
    cases alarmOf alm with
    | none => rfl
    | some n => cases (modeOfCode mode).bind fun m => encodedBytes s.params m sec min hour wday day <;> rfl

/-- `commandPlan` is what a command does. -/
theorem runCommand_eq_plan (c : Command) (s : State) : runCommand c s = .next ((commandPlan s.params c).run s) := by
  unfold runCommand commandPlan
  cases decode c with
  | command i => exact exec_eq_plan i s
  | reserved w => rfl

/-- A step with a command next runs that command on the state less that move (R26). -/
theorem step_issue {s : State} {c : Command} {rest : List HostMove} (h : s.host = .issue c :: rest) :
    step s = runCommand c { s with host := rest } := by
  simp only [step, h]

/-! ## The burst of a plan is the one the word, the alarm number and the mode give -/

theorem word_of_mnemonicOf {w : Byte} {m : Mnemonic} (h : mnemonicOf w = some m) : w = m.word := by
  revert h
  unfold mnemonicOf
  split_ifs <;> rintro ⟨⟩ <;> assumption

theorem commandBurst_eq_none {w : Byte} (h : mnemonicOf w = none) (q : Ports) : commandBurst ⟨w, q⟩ = none := by
  unfold mnemonicOf at h
  split_ifs at h
  simp only [commandBurst, if_false, *]

theorem encodedBytes_eq_none_iff (p : Config.Params) (m : AlarmMode) (sec min hour wday day : Byte) :
    encodedBytes p m sec min hour wday day = none ↔ m = .unknown := by
  cases m <;> simp [encodedBytes, pattern]

/-- The mode codes that ALM_ENCODE does not recognise (R64). -/
theorem modeOfCode_unrecognised_iff :
    ∀ c : BitVec 4, modeOfCode c = none ∨ modeOfCode c = some .unknown ↔ c = 0 ∨ 9 ≤ c.toNat := by
  decide

theorem bind_encodedBytes_eq_none_iff (p : Config.Params) (mode : BitVec 4) (sec min hour wday day : Byte) :
    ((modeOfCode mode).bind fun m => encodedBytes p m sec min hour wday day) = none ↔ mode = 0 ∨ 9 ≤ mode.toNat := by
  rw [← modeOfCode_unrecognised_iff mode]
  cases modeOfCode mode <;> simp [encodedBytes_eq_none_iff]

@[simp] theorem wireBytes_length (n : AlarmNum) (c : AlarmBytes) : (wireBytes n c).length = alarmLen n := by
  cases n <;> rfl

theorem commandBurst_almDecode (q : Ports) :
    commandBurst ⟨Mnemonic.almDecode.word, q⟩
      = (alarmOf q.alm).map fun n => (.read, alarmBase n, alarmLen n) := by
  change (if q.alm = 1 then _ else if q.alm = 2 then _ else _) = _
  unfold alarmOf
  split_ifs <;> rfl

theorem commandBurst_almEncode (q : Ports) :
    commandBurst ⟨Mnemonic.almEncode.word, q⟩
      = if q.mode = 0 ∨ 9 ≤ q.mode.toNat then none
        else (alarmOf q.alm).map fun n => (.write, alarmBase n, alarmLen n) := by
  change (if q.mode = 0 ∨ 9 ≤ q.mode.toNat then _ else if q.alm = 1 then _ else if q.alm = 2 then _ else _) = _
  unfold alarmOf
  split_ifs <;> rfl

theorem planOf_almDecode_burst (p : Config.Params) (alm : Byte) :
    (planOf p (.almDecode alm)).burst = (alarmOf alm).map fun n => (.read, alarmBase n, alarmLen n) := by
  simp only [planOf]
  cases alarmOf alm <;> rfl

theorem planOf_almEncode_burst (p : Config.Params) (alm : Byte) (mode : BitVec 4) (sec min hour wday day : Byte) :
    (planOf p (.almEncode alm mode sec min hour wday day)).burst
      = if mode = 0 ∨ 9 ≤ mode.toNat then none
        else (alarmOf alm).map fun n => (.write, alarmBase n, alarmLen n) := by
  rw [← if_congr (bind_encodedBytes_eq_none_iff p mode sec min hour wday day) rfl rfl]
  simp only [planOf]
  cases alarmOf alm with
  | none => simp [Plan.burst]
  | some n =>
    cases (modeOfCode mode).bind fun m => encodedBytes p m sec min hour wday day <;> simp [Plan.burst]

/-- The burst `commandBurst` names (R42, R47) is the plan's, whatever the parameters. -/
theorem commandBurst_eq_plan (p : Config.Params) (c : Command) : commandBurst c = (commandPlan p c).burst := by
  obtain ⟨w, q⟩ := c
  cases hm : mnemonicOf w with
  | none =>
    have hplan : commandPlan p ⟨w, q⟩ = .quiet 0 statusEcmd := by simp only [commandPlan, decode, hm]
    rw [commandBurst_eq_none hm, hplan]
    rfl
  | some m =>
    have hplan : commandPlan p ⟨w, q⟩ = planOf p (sample q m) := by simp only [commandPlan, decode, hm]
    rw [hplan]
    obtain rfl := word_of_mnemonicOf hm
    cases m with
    | bcd2dec => rfl
    | dec2bcd => rfl
    | calDecode => rfl
    | calEncodeFull => rfl
    | calEncodeTime => rfl
    | calEncodeDate => rfl
    | almDecode => exact (commandBurst_almDecode q).trans (planOf_almDecode_burst p q.alm).symm
    | almEncode => exact (commandBurst_almEncode q).trans (planOf_almEncode_burst p _ _ _ _ _ _ _).symm

/-! ## The frame of a command, and its independence of the past -/

/-- Settles O33: read off the plan, whose burst is the one the word gives. -/
theorem frameOfEveryCommand : Obligations.FrameOfEveryCommand := by
  intro c s t h
  rw [runCommand_eq_plan] at h
  obtain rfl : _ = t := by simpa using h
  refine ⟨(Plan.run_issues s _).params, Plan.run_host s _, ?_⟩
  rw [commandBurst_eq_plan s.params c]
  cases commandPlan s.params c with
  | quiet => exact ⟨rfl, rfl, rfl, rfl, rfl, rfl⟩
  | read => exact rfl
  | write => exact ⟨rfl, rfl, fun a ha => Memory.find_storeBytes_outside ha⟩

theorem State.readBurst_congr {s u : State} {base : Byte} {n : Nat}
    (h : ∀ i < n, s.answer (base.toNat + i) = u.answer (base.toNat + i)) : s.readBurst base n = u.readBurst base n :=
  congrArg (Burst.mk .read base) (List.map_congr_left fun i hi => h i (List.mem_range.1 hi))

/-- A plan issues and leaves the same from two states that answer its own read alike. -/
theorem Plan.congr {s u : State} (a : Plan)
    (h : ∀ base n, a.burst = some (.read, base, n) → ∀ i < n, s.answer (base.toNat + i) = u.answer (base.toNat + i)) :
    a.bursts s = a.bursts u ∧ a.results s = a.results u := by
  cases a with
  | quiet => exact ⟨rfl, rfl⟩
  | read base n fields =>
    have hb : s.readBurst base n = u.readBurst base n := State.readBurst_congr (h base n rfl)
    simp [Plan.bursts, Plan.results, hb]
  | write => exact ⟨rfl, rfl⟩

/-- Settles O23: equal parameters give one plan, and a plan depends on the state by its own read's answers only. -/
theorem commandsForgetTheirPast : Obligations.CommandsForgetTheirPast := by
  intro c s u hp hread
  rw [commandBurst_eq_plan s.params] at hread
  obtain ⟨hbursts, hresults⟩ := (commandPlan s.params c).congr hread
  refine ⟨_, _, _, runCommand_eq_plan c s, runCommand_eq_plan c u, ?_, (Plan.run_issues s _).bursts, ?_⟩
  · rw [← hp]
    exact hresults
  · rw [hbursts, ← hp]
    exact (Plan.run_issues u _).bursts

/-! ## The result registers of every plan are sound -/

/-- STATUS bit by bit (R24). -/
theorem Results.bits_of_status {r : Results} {ecmd ealm emode wdnorm offinf : Bool}
    (h : r.status = statusWord ecmd ealm emode wdnorm offinf) :
    r.valid = true ∧ r.ecmd = ecmd ∧ r.ealm = ealm ∧ r.emode = emode ∧ r.wdnorm = wdnorm ∧ r.offinf = offinf
      ∧ r.ReservedStatusZero := by
  unfold Results.ReservedStatusZero Results.valid Results.ecmd Results.ealm Results.emode Results.wdnorm Results.offinf
  rw [h]
  clear h
  revert ecmd ealm emode wdnorm offinf
  decide

theorem Results.zero_sound : Results.zero.Sound := by
  constructor <;> decide

/-- A command without a burst leaves sound results: at most one error, and Y only without one. -/
theorem Results.quiet_sound {y : Byte} {ecmd ealm emode : Bool}
    (hone : ¬ (ecmd ∧ ealm) ∧ ¬ (ecmd ∧ emode) ∧ ¬ (ealm ∧ emode)) (hy : ecmd ∨ ealm ∨ emode → y = 0) :
    (Results.quiet y (statusWord ecmd ealm emode false false)).Sound := by
  obtain ⟨hvalid, hecmd, healm, hemode, hwd, hoff, hres⟩ :=
    Results.bits_of_status (r := .quiet y (statusWord ecmd ealm emode false false)) rfl
  exact {
    inRange := by simp [Results.InRange, Results.quiet]
    oneOutcome := by simpa [Results.OneOutcome, hecmd, healm, hemode, hwd] using hone
    reservedStatus := hres
    zeroUnlessValid := by simp [Results.ZeroUnlessValid, hvalid]
    zeroOnError := by
      unfold Results.ZeroOnError
      rw [hecmd, healm, hemode]
      intro he
      rw [hy he]
      rfl
    txnLegal := by simp [Results.TxnLegal, Results.quiet]
    rbZeroBeyond := fun i _ => by fin_cases i <;> rfl
    producedByRead := by simp [Results.ProducedByRead, Results.quiet]
    reportsFit := by simp [Results.ReportsFit, hwd, hoff] }

theorem Burst.Legal.length_le {b : Burst} (hb : b.Legal) : b.bytes.length ≤ 7 :=
  (by decide : ∀ x ∈ legalBursts, x.2.2 ≤ 7) _ hb

theorem Burst.Legal.end_le {b : Burst} (hb : b.Legal) : b.addr.toNat + b.bytes.length ≤ 0x0E :=
  (by decide : ∀ x ∈ legalBursts, x.2.1.toNat + x.2.2 ≤ 0x0E) _ hb

theorem Results.record_get_rb (r : Results) (b : Burst) (i : Fin 7) : (r.record b).get (.rb i) = (b.byte i).toNat := by
  fin_cases i <;> rfl

theorem Results.record_txnLegal (r : Results) {b : Burst} (hb : b.Legal) : (r.record b).TxnLegal :=
  List.mem_cons_of_mem _ (List.mem_map_of_mem hb)

theorem Results.record_rbZeroBeyond (r : Results) {b : Burst} (hb : b.Legal) : (r.record b).RbZeroBeyond := by
  intro i hi
  have hlen := hb.length_le
  have hi' : b.bytes.length ≤ i.val := by
    rwa [Results.record_txnLen, BitVec.toNat_ofNat, Nat.mod_eq_of_lt (by omega)] at hi
  rw [Results.record_get_rb, b.byte_beyond hi']
  rfl

/-- A legal burst recorded beside results without an error and without Y is sound, if a write leaves no decoded field
and the two reports stand with the burst they belong to. -/
theorem Results.record_sound {r : Results} {b : Burst} {wdnorm offinf : Bool} (hb : b.Legal)
    (hs : r.status = statusWord false false false wdnorm offinf) (hr : r.InRange) (hy : r.y = 0)
    (hwrite : b.dir = .write → r = .quiet 0 r.status)
    (hwd : wdnorm → b.dir = .write ∧ (b.bytes.length = 7 ∨ b.bytes.length = 4 ∧ b.addr = 3))
    (hoff : offinf → b.dir = .read ∧ r.mode = 8) : (r.record b).Sound := by
  obtain ⟨hvalid, hecmd, healm, hemode, hwdnorm, hoffinf, hres⟩ :=
    Results.bits_of_status (r := r.record b) hs
  exact {
    inRange := hr
    oneOutcome := by
      simp only [Results.OneOutcome, hecmd, healm, hemode, hwdnorm, hoffinf]
      refine ⟨by simp, by simp, by simp, fun ⟨hw, ho⟩ => ?_⟩
      exact Dir.noConfusion ((hwd hw).1.symm.trans (hoff ho).1)
    reservedStatus := hres
    zeroUnlessValid := by simp [Results.ZeroUnlessValid, hvalid]
    zeroOnError := by simp [Results.ZeroOnError, hecmd, healm, hemode]
    txnLegal := r.record_txnLegal hb
    rbZeroBeyond := r.record_rbZeroBeyond hb
    producedByRead := by
      refine ⟨fun _ => hy, fun hd => ?_⟩
      have hw : b.dir = .write := by
        cases hdir : b.dir with
        | read => exact absurd (by simp [hdir, Dir.code]) hd
        | write => rfl
      rw [hwrite hw]
      simp [Results.quiet]
    reportsFit := by
      unfold Results.ReportsFit
      rw [hwdnorm, hoffinf]
      refine ⟨fun hw => ?_, fun ho => ?_⟩
      · obtain ⟨hdir, hlen⟩ := hwd hw
        refine ⟨by simp [hdir, Dir.code], ?_⟩
        rcases hlen with hlen | ⟨hlen, haddr⟩
        · simp [hlen]
        · simp [hlen, haddr]
      · obtain ⟨hdir, hmode⟩ := hoff ho
        exact ⟨by simp [hdir, Dir.code], hmode⟩ }

/-- What a write leaves is sound: WDNORM stands only where the Weekday byte is written. -/
theorem Results.write_sound {base : Byte} {v : List Byte} {changed : Bool} (hb : Burst.Legal ⟨.write, base, v⟩)
    (hwd : changed → v.length = 7 ∨ v.length = 4 ∧ base = 3) :
    ((Results.quiet 0 (statusWeekday changed)).record ⟨.write, base, v⟩).Sound :=
  Results.record_sound hb rfl (by simp [Results.InRange, Results.quiet]) rfl (fun _ => rfl)
    (fun h => ⟨rfl, hwd h⟩) (by simp)

theorem sexagesimalField_le (b : Byte) : (sexagesimalField b).toNat ≤ 85 :=
  (sexagesimalField_toNat b).1.trans_le (sexagesimalField_toNat b).2

theorem hourField_le (b : Byte) : (hourField b).toNat ≤ 45 := (hourField_toNat b).1.trans_le (hourField_toNat b).2

theorem dayField_le (b : Byte) : (dayField b).toNat ≤ 45 := (dayField_toNat b).1.trans_le (dayField_toNat b).2

theorem monthField_le (b : Byte) : (monthField b).toNat ≤ 25 := (monthField_toNat b).1.trans_le (monthField_toNat b).2

theorem calendarFields_inRange (b : Burst) : (calendarFields b).InRange :=
  ⟨sexagesimalField_le _, sexagesimalField_le _, hourField_le _, (weekdayField_eq _).2, dayField_le _, monthField_le _,
    (yearField_toNat _ _).2, by simp [calendarFields]⟩

theorem alarmResults_inRange (p : Config.Params) (n : AlarmNum) (c : AlarmBytes) : (alarmResults p n c).InRange := by
  refine ⟨?sec, sexagesimalField_le _, hourField_le _, ?wday, ?day, by simp [alarmResults, alarmFields],
    by simp [alarmResults, alarmFields], modeCode_le _⟩
  case sec =>
    cases n with
    | one => exact sexagesimalField_le _
    | two => simp [alarmResults, alarmFields]
  case wday =>
    simp only [alarmResults, alarmFields]
    split
    · exact (weekdayField_eq _).2
    · simp
  case day =>
    simp only [alarmResults, alarmFields]
    split
    · simp
    · exact dayField_le _

/-- What CAL_DECODE leaves is sound: STATUS 0x01 reports nothing (R120). -/
theorem calendarFields_sound {b : Burst} (hb : b.Legal) (hdir : b.dir = .read) :
    ((calendarFields b).record b).Sound :=
  Results.record_sound hb (wdnorm := false) (offinf := false) rfl (calendarFields_inRange b) rfl (by simp [hdir])
    (by simp) (by simp)

/-- What ALM_DECODE leaves is sound: OFFINF stands only beside MODE Off (R155). -/
theorem alarmResults_sound (p : Config.Params) (n : AlarmNum) (c : AlarmBytes) {b : Burst} (hb : b.Legal)
    (hdir : b.dir = .read) : ((alarmResults p n c).record b).Sound := by
  refine Results.record_sound hb rfl (alarmResults_inRange p n c) rfl (by simp [hdir]) (by simp) fun hoff => ⟨hdir, ?_⟩
  simp [alarmResults, hoff, modeCode]

/-! ## The invariant -/

/-- What a plan leaves in the result registers from a state is sound, and what it issues is legal. -/
def Plan.Sound (s : State) (a : Plan) : Prop := (a.results s).Sound ∧ ∀ b ∈ a.bursts s, b.Legal

theorem Plan.quiet_sound (s : State) {y : Byte} {ecmd ealm emode : Bool}
    (hone : ¬ (ecmd ∧ ealm) ∧ ¬ (ecmd ∧ emode) ∧ ¬ (ealm ∧ emode)) (hy : ecmd ∨ ealm ∨ emode → y = 0) :
    (Plan.quiet y (statusWord ecmd ealm emode false false)).Sound s :=
  ⟨Results.quiet_sound hone hy, by simp [Plan.bursts]⟩

theorem Plan.read_sound {s : State} {base : Byte} {n : Nat} {fields : Burst → Results}
    (hb : (s.readBurst base n).Legal) (hr : ((fields (s.readBurst base n)).record (s.readBurst base n)).Sound) :
    (Plan.read base n fields).Sound s :=
  ⟨hr, List.forall_mem_singleton.2 hb⟩

theorem Plan.write_sound (s : State) {base : Byte} {v : List Byte} {changed : Bool}
    (hb : Burst.Legal ⟨.write, base, v⟩) (hwd : changed → v.length = 7 ∨ v.length = 4 ∧ base = 3) :
    (Plan.write base v (statusWeekday changed)).Sound s :=
  ⟨Results.write_sound hb hwd, List.forall_mem_singleton.2 hb⟩

theorem planOf_almDecode_sound (p : Config.Params) (alm : Byte) (s : State) : (planOf p (.almDecode alm)).Sound s := by
  simp only [planOf]
  cases alarmOf alm with
  | none => exact Plan.quiet_sound s (by simp) fun _ => rfl
  | some n => exact Plan.read_sound (alarm_read_legal s n) (alarmResults_sound p n _ (alarm_read_legal s n) rfl)

theorem planOf_almEncode_sound (p : Config.Params) (alm : Byte) (mode : BitVec 4) (sec min hour wday day : Byte)
    (s : State) : (planOf p (.almEncode alm mode sec min hour wday day)).Sound s := by
  simp only [planOf]
  cases alarmOf alm with
  | none => exact Plan.quiet_sound s (by simp) fun _ => rfl
  | some n =>
    cases (modeOfCode mode).bind fun m => encodedBytes p m sec min hour wday day with
    | none => exact Plan.quiet_sound s (by simp) fun _ => rfl
    | some c => exact Plan.write_sound (changed := false) s (alarm_write_legal n c) (by simp)

/-- R22, R24, R42 and R202, instruction by instruction. -/
theorem planOf_sound (p : Config.Params) (i : Instr) (s : State) : (planOf p i).Sound s := by
  cases i with
  | bcd2dec a => exact Plan.quiet_sound s (by simp) (by simp)
  | dec2bcd a => exact Plan.quiet_sound s (by simp) (by simp)
  | calDecode =>
    have hb : (s.readBurst Config.tdBase Config.tdLen).Legal := by
      simp [Burst.Legal, legalBursts, Config.tdBase, Config.tdLen]
    exact Plan.read_sound hb (calendarFields_sound hb rfl)
  | calEncodeFull =>
    exact Plan.write_sound s (by simp [Burst.Legal, legalBursts, Config.tdBase, timeBytes, dateBytes])
      fun _ => .inl rfl
  | calEncodeTime =>
    exact Plan.write_sound (changed := false) s (by simp [Burst.Legal, legalBursts, Config.timeBase, timeBytes])
      (by simp)
  | calEncodeDate =>
    exact Plan.write_sound s (by simp [Burst.Legal, legalBursts, Config.dateBase, dateBytes]) fun _ => .inr ⟨rfl, rfl⟩
  | almDecode alm => exact planOf_almDecode_sound p alm s
  | almEncode alm mode sec min hour wday day => exact planOf_almEncode_sound p alm mode sec min hour wday day s

theorem Burst.deliver_wf {m : Memory} {b : Burst} (hb : b.Legal) (hm : Memory.wf m = true) :
    Memory.wf (Burst.deliver m b) = true := by
  have hend := hb.end_le
  unfold Burst.deliver
  cases b.dir with
  | read => exact hm
  | write => exact Memory.storeBytes_wf (by omega) hm

theorem Burst.deliver_reached {m : Memory} {b : Burst} (hb : b.Legal) (hm : Memory.Reached m) :
    Memory.Reached (Burst.deliver m b) := by
  unfold Burst.deliver
  cases b.dir with
  | read => exact hm
  | write => exact Memory.storeBytes_reached hb.end_le hm

/-- Legal bursts deliver into a canonical memory inside 0x00 to 0x0D, in any number. -/
theorem deliver_all_keeps {bs : List Burst} {m : Memory} (hbs : ∀ b ∈ bs, b.Legal)
    (hm : Memory.wf m = true ∧ Memory.Reached m) :
    Memory.wf (bs.foldl Burst.deliver m) = true ∧ Memory.Reached (bs.foldl Burst.deliver m) := by
  induction bs generalizing m with
  | nil => exact hm
  | cons b bs ih =>
    obtain ⟨hb, hbs⟩ := List.forall_mem_cons.1 hbs
    exact ih hbs ⟨Burst.deliver_wf hb hm.1, Burst.deliver_reached hb hm.2⟩

/-- The invariant is kept by whatever issues legal bursts, leaves sound results and lists no new snapshot. -/
theorem State.Inv.of_issues {s t : State} {bs : List Burst} (hs : s.Inv) (hi : s.Issues t bs)
    (hbs : ∀ b ∈ bs, b.Legal) (hout : t.out.Sound) (hsnap : t.snapshots ⊆ s.snapshots) : t.Inv := by
  obtain ⟨hwf, hreached⟩ := deliver_all_keeps hbs ⟨hs.deliveredWf, hs.deliveredReached⟩
  exact {
    results := hout
    bursts := by
      rw [hi.bursts]
      exact List.forall_mem_append.2 ⟨hs.bursts, hbs⟩
    deliveredWf := hi.delivered ▸ hwf
    deliveredReached := hi.delivered ▸ hreached
    snapshotsWf := fun m hm => hs.snapshotsWf m (hsnap hm) }

/-- A step that only writes the result registers, the host's moves or the draw counter keeps the invariant. -/
theorem State.Inv.of_quiet {s t : State} (hs : s.Inv) (hp : t.params = s.params) (hb : t.bursts = s.bursts)
    (hd : t.delivered = s.delivered) (hsnap : t.snapshots = s.snapshots) (hout : t.out.Sound) : t.Inv :=
  hs.of_issues (.of_unchanged hp hb hd) (by simp) hout (hsnap ▸ List.Subset.refl _)

theorem Plan.Sound.run_inv {s : State} {a : Plan} (ha : a.Sound s) (hs : s.Inv) : (a.run s).Inv :=
  hs.of_issues (Plan.run_issues s a) ha.2 ha.1 (Plan.run_snapshots_subset s a)

theorem step_keeps_inv {s : State} (hs : s.Inv) : ∃ t, step s = .next t ∧ t.Inv := by
  obtain ⟨-, h⟩ | ⟨c, rest, i, -, -, h⟩ | ⟨c, rest, -, -, h⟩ | ⟨rest, -, h⟩ | ⟨c, rest, -, h⟩ | ⟨r, rest, -, h⟩ :=
    step_cases s
  case inl => exact ⟨s, h, hs⟩
  case inr.inl =>
    have hs' : ({ s with host := rest } : State).Inv := hs.of_quiet rfl rfl rfl rfl hs.results
    exact ⟨_, h.trans (exec_eq_plan i _), (planOf_sound s.params i _).run_inv hs'⟩
  case inr.inr.inl => exact ⟨_, h, hs.of_quiet rfl rfl rfl rfl (Results.quiet_sound (by simp) fun _ => rfl)⟩
  case inr.inr.inr.inl => exact ⟨_, h, hs.of_quiet rfl rfl rfl rfl Results.zero_sound⟩
  all_goals exact ⟨_, h, hs.of_quiet rfl rfl rfl rfl hs.results⟩

/-- Settles O29: every plan is sound, and no other step touches what the invariant speaks of but to clear the result
registers. -/
theorem stepKeepsInvariant : Obligations.StepKeepsInvariant := by
  intro s t hs h
  obtain ⟨u, hu, hinv⟩ := step_keeps_inv hs
  obtain rfl : u = t := by simpa using hu.symm.trans h
  exact hinv

/-- Settles O28: the reset state's result registers are sound, and its lists are empty. -/
theorem invariantAtReset : Obligations.InvariantAtReset :=
  ⟨⟨Results.zero_sound, by simp, rfl, by simp [Memory.Reached], by simp⟩, rfl, .inl rfl⟩

/-! ## One step -/

/-- Settles O3: `runCommand` goes by what the decoder answers (R67). -/
theorem stepRunsTheDecodedCommand : Obligations.StepRunsTheDecodedCommand := by
  intro s c rest h
  rw [step_issue h]
  constructor
  · intro i hi
    simp only [runCommand, hi]
  · intro w hw
    simp only [runCommand, hw]

/-- Settles O36. -/
theorem idleBlockDoesNothing : Obligations.IdleBlockDoesNothing := by
  intro s h
  simp only [step, h]

end Sys2Proof.Machine
end

section
/-! PROOF. The family of 20_memory.md: the burst of a command (O21), read off its plan, and the freedom of the
environment's answers (O24), from a snapshot that lists every address. -/

namespace Sys2Proof.Machine

/-! ## The burst of every command -/

/-- A command's plan is sound: `planOf_sound`, and the reserved words' plan (R66). -/
theorem commandPlan_sound (p : Config.Params) (c : Command) (s : State) : (commandPlan p c).Sound s := by
  unfold commandPlan
  cases decode c with
  | command i => exact planOf_sound p i s
  | reserved w => exact Plan.quiet_sound s (by simp) fun _ => rfl

/-- Settles O21: `commandBurst` names the plan's burst, which the plan issues and soundness makes legal. -/
theorem burstOfEveryCommand : Obligations.BurstOfEveryCommand := by
  intro c s
  refine ⟨_, runCommand_eq_plan c s, ?_⟩
  obtain ⟨-, hlegal⟩ := commandPlan_sound s.params c s
  rw [commandBurst_eq_plan s.params c]
  generalize commandPlan s.params c = a at hlegal ⊢
  cases a with
  | quiet => exact ⟨rfl, rfl⟩
  | read base n fields =>
    exact ⟨s.readBurst base n, rfl, rfl, rfl, s.answers_length base.toNat n, List.forall_mem_singleton.1 hlegal⟩
  | write base v status => exact ⟨⟨.write, base, v⟩, rfl, rfl, rfl, rfl, List.forall_mem_singleton.1 hlegal⟩

/-! ## The environment's answers are free -/

/-- The register file that holds `f a` at every address `a` of R40's address space. -/
def Memory.full (f : Nat → Byte) : Memory := Memory.storeBytes [] 0 ((List.range 256).map f)

theorem Memory.full_wf (f : Nat → Byte) : Memory.wf (Memory.full f) = true :=
  Memory.storeBytes_wf (by simp) rfl

theorem Memory.find_full (f : Nat → Byte) {a : Nat} (ha : a < 256) : Memory.find (Memory.full f) a = some (f a) := by
  have h := Memory.find_storeBytes_inside (m := []) (a := 0) (v := (List.range 256).map f) (i := a) (by simpa using ha)
  simpa [Memory.full] using h

/-- A byte that the next snapshot lists is the answer, whatever was delivered (R46). -/
theorem State.answer_of_find {s : State} {m : Memory} {rest : List Memory} {a : Nat} {b : Byte}
    (hs : s.snapshots = m :: rest) (hm : Memory.find m a = some b) : s.answer a = b := by
  simp only [State.answer, hs, List.headD_cons, hm]

/-- Settles O24: two full snapshots, the first used up by the read between. -/
theorem readsAdmitAnyBytes : Obligations.ReadsAdmitAnyBytes := by
  intro s f g base n
  refine ⟨[Memory.full f, Memory.full g], ?_, ?_, ?_⟩
  · simp [Memory.full_wf]
  · intro a ha
    exact State.answer_of_find rfl (Memory.find_full f ha)
  · intro a ha
    exact State.answer_of_find rfl (Memory.find_full g ha)

end Sys2Proof.Machine
end

section
/-! PROOF. The family of 30_encoding.md. The decoder (R60 to R67): a mnemonic's word decodes to its sampled ports, every
other word is reserved; O4, O5 and O6 follow. Assembly lines (R69, R70): a line that assigns to distinct ports the values
they have in some `Ports` stands for these ports, if the ports it leaves out are 0 there (`Line.command_assign`); O38 and
O39 follow. The decode column of R64's mode table (O19). -/

namespace Sys2Proof

open Machine

/-! ## The decoder -/

@[simp] theorem mnemonicOf_word (m : Mnemonic) : mnemonicOf m.word = some m := by cases m <;> rfl

theorem mnemonicOf_eq_none_iff {w : Byte} : mnemonicOf w = none ↔ w ∉ legalWords := by
  constructor
  · intro h hw
    have hlegal : ∀ v ∈ legalWords, mnemonicOf v ≠ none := by decide
    exact hlegal w hw h
  · intro hw
    cases hm : mnemonicOf w with
    | none => rfl
    | some m =>
      have hlegal : m.word ∈ legalWords := by cases m <;> decide
      exact absurd (word_of_mnemonicOf hm ▸ hlegal) hw

/-- A mnemonic's word decodes to the mnemonic with its ports sampled, whatever stands on them (R62, R67). -/
theorem decode_word (q : Ports) (m : Mnemonic) : decode ⟨m.word, q⟩ = .command (sample q m) := by
  simp only [decode, mnemonicOf_word]

/-- Every word but the eight is reserved (R67). -/
theorem decode_of_not_legal {c : Command} (h : c.word ∉ legalWords) : decode c = .reserved c.word := by
  simp only [decode, mnemonicOf_eq_none_iff.2 h]

/-- Only a mnemonic's word decodes to an instruction. -/
theorem exists_sample_of_decode {c : Command} {i : Instr} (h : decode c = .command i) :
    ∃ m : Mnemonic, c.word = m.word ∧ i = sample c.ports m := by
  cases hm : mnemonicOf c.word with
  | none => simp only [decode, hm, reduceCtorEq] at h
  | some m =>
    simp only [decode, hm, Decoded.command.injEq] at h
    exact ⟨m, word_of_mnemonicOf hm, h.symm⟩

theorem decode_encode (i : Instr) : decode (encode i) = .command i := by
  cases i with
  | bcd2dec => exact decode_word _ .bcd2dec
  | dec2bcd => exact decode_word _ .dec2bcd
  | calDecode => exact decode_word _ .calDecode
  | calEncodeFull => exact decode_word _ .calEncodeFull
  | calEncodeTime => exact decode_word _ .calEncodeTime
  | calEncodeDate => exact decode_word _ .calEncodeDate
  | almDecode => exact decode_word _ .almDecode
  | almEncode => exact decode_word _ .almEncode

@[simp] theorem encode_sample_word (q : Ports) (m : Mnemonic) : (encode (sample q m)).word = m.word := by
  cases m <;> rfl

/-- The word of a command that decodes to an instruction is that instruction's word. -/
theorem encode_word_of_decode {c : Command} {i : Instr} (h : decode c = .command i) : (encode i).word = c.word := by
  obtain ⟨m, hw, rfl⟩ := exists_sample_of_decode h
  rw [encode_sample_word, hw]

/-- Settles O4: the eight mnemonics' words are the eight words. -/
theorem decodeComparesWithTheEightWords : Obligations.DecodeComparesWithTheEightWords := by
  intro p
  refine ⟨decode_word p .bcd2dec, decode_word p .dec2bcd, decode_word p .calDecode, decode_word p .calEncodeFull,
    decode_word p .calEncodeTime, decode_word p .calEncodeDate, decode_word p .almDecode, decode_word p .almEncode, ?_⟩
  intro w h00 h01 h02 h03 h0B h13 h04 h05
  have hw : w ∉ legalWords := by
    simpa [legalWords] using ⟨h00, h01, h02, h03, h0B, h13, h04, h05⟩
  exact decode_of_not_legal (c := ⟨w, p⟩) hw

/-- Settles O5: for the converse, the command's word with the encoding's ports is the encoding. -/
theorem decodeUndoesEncode : Obligations.DecodeUndoesEncode := by
  refine ⟨decode_encode, fun c i h => ⟨encode_word_of_decode h, ?_⟩⟩
  calc decode ⟨c.word, (encode i).ports⟩
      _ = decode (encode i) := by rw [← encode_word_of_decode h]
      _ = .command i := decode_encode i
      _ = decode c := h.symm

/-- The reserved words by their fields OP, SC and RSV (R60, R65, R66). -/
theorem not_legal_iff_fields : ∀ w : Byte, w ∉ legalWords ↔
    (w.extractLsb' 0 3 = 0b110 ∨ w.extractLsb' 0 3 = 0b111 ∨ w.extractLsb' 5 3 ≠ 0
      ∨ (w.extractLsb' 3 2 ≠ 0b00 ∧ w.extractLsb' 0 3 ≠ 0b011)
      ∨ (w.extractLsb' 3 2 = 0b11 ∧ w.extractLsb' 0 3 = 0b011)) :=
  forall_byte (by decide)

/-- Settles O6: a word that is not legal decodes to RESERVED, and the step runs `execReserved`. -/
theorem reservedWordsDoNothingButSetEcmd : Obligations.ReservedWordsDoNothingButSetEcmd := by
  refine ⟨not_legal_iff_fields, fun s c rest hs hw => ?_⟩
  obtain ⟨-, hreserved⟩ := stepRunsTheDecodedCommand s c rest hs
  exact hreserved c.word (decode_of_not_legal hw)

/-! ## The value of a port -/

/-- What stands on a port, as an unsigned number (R6). -/
def Ports.value (p : Ports) : Port → Nat
  | .a => p.a.toNat
  | .sec => p.sec.toNat
  | .min => p.min.toNat
  | .hour => p.hour.toNat
  | .wday => p.wday.toNat
  | .day => p.day.toNat
  | .mon => p.mon.toNat
  | .year => p.year.toNat
  | .alm => p.alm.toNat
  | .mode => p.mode.toNat

theorem Ports.value_lt (p : Ports) (q : Port) : p.value q < 2 ^ q.width := by
  cases q <;> exact BitVec.isLt _

@[simp] theorem Ports.zero_value (q : Port) : Ports.zero.value q = 0 := by cases q <;> rfl

theorem Ports.eq_of_value {p p' : Ports} (h : ∀ q, p.value q = p'.value q) : p = p' :=
  (Ports.mk.injEq ..).mpr ⟨BitVec.eq_of_toNat_eq (h .a), BitVec.eq_of_toNat_eq (h .sec), BitVec.eq_of_toNat_eq (h .min),
    BitVec.eq_of_toNat_eq (h .hour), BitVec.eq_of_toNat_eq (h .wday), BitVec.eq_of_toNat_eq (h .day),
    BitVec.eq_of_toNat_eq (h .mon), BitVec.eq_of_toNat_eq (h .year), BitVec.eq_of_toNat_eq (h .alm),
    BitVec.eq_of_toNat_eq (h .mode)⟩

theorem Ports.value_put_same (p : Ports) {q : Port} {v : Nat} (hv : v < 2 ^ q.width) : (p.put q v).value q = v := by
  cases q <;> exact Nat.mod_eq_of_lt hv

theorem Ports.value_put_of_ne (p : Ports) {q r : Port} (v : Nat) : r ≠ q → (p.put q v).value r = p.value r := by
  cases q <;> cases r <;> simp [Ports.put, Ports.value]

/-! ## Lines that assign the values of ports -/

/-- The assignments that give each port of a list the value it has in `p`. -/
def Ports.assign (p : Ports) (qs : List Port) : List (Port × Nat) := qs.map fun q => (q, p.value q)

/-- Assignments reach the ports they name and no other. -/
theorem Ports.value_foldl_assign (p acc : Ports) (qs : List Port) (r : Port) :
    ((p.assign qs).foldl (fun p pv => p.put pv.1 pv.2) acc).value r = if r ∈ qs then p.value r else acc.value r := by
  induction qs generalizing acc with
  | nil => rfl
  | cons q qs ih =>
    have hstep := ih (acc.put q (p.value q))
    simp only [Ports.assign, List.map_cons, List.foldl_cons, List.mem_cons] at hstep ⊢
    rw [hstep]
    by_cases hq : r = q
    · subst hq
      simp [Ports.value_put_same acc (p.value_lt r)]
    · simp [hq, Ports.value_put_of_ne acc (p.value q) hq]

/-- "A port left unwritten is 0" (R69): assigning all the nonzero ports gives the ports back. -/
theorem Ports.ofSets_assign {p : Ports} {qs : List Port} (h : ∀ q, q ∉ qs → p.value q = 0) :
    Ports.ofSets (p.assign qs) = p := by
  refine Ports.eq_of_value fun r => ?_
  rw [Ports.ofSets, Ports.value_foldl_assign]
  split
  · rfl
  · next hr => rw [Ports.zero_value, h r hr]

theorem Line.wf_assign {hd : Head} (p : Ports) {qs : List Port} (hhead : hd.reservedIsReserved = true)
    (hnodup : qs.Nodup) : (Line.mk hd (p.assign qs)).wf = true := by
  have hfit : (Line.mk hd (p.assign qs)).valuesFit = true := by
    simp [Line.valuesFit, Ports.assign, Ports.value_lt]
  have honce : (Line.mk hd (p.assign qs)).portsOnce = true := by
    simpa [Line.portsOnce, Ports.assign, Function.comp_def] using hnodup
  simp [Line.wf, hfit, honce, hhead]

/-- A line that assigns all the nonzero ports of `p`, each once, stands for its head's word with `p` on the ports. -/
theorem Line.command_assign {hd : Head} {p : Ports} {qs : List Port} (hhead : hd.reservedIsReserved = true)
    (hnodup : qs.Nodup) (hzero : ∀ q, q ∉ qs → p.value q = 0) :
    (Line.mk hd (p.assign qs)).command = some ⟨hd.word, p⟩ := by
  rw [Line.command, if_pos (Line.wf_assign p hhead hnodup), Ports.ofSets_assign hzero]

/-! ## The line of every command -/

/-- Every port, in the order of R62. -/
def allPorts : List Port := [.a, .sec, .min, .hour, .wday, .day, .mon, .year, .alm, .mode]

theorem mem_allPorts (q : Port) : q ∈ allPorts := by cases q <;> decide

theorem Line.ofCommand_eq_assign (c : Command) : Line.ofCommand c = ⟨Head.ofWord c.word, c.ports.assign allPorts⟩ := rfl

@[simp] theorem Head.ofWord_word (w : Byte) : (Head.ofWord w).word = w := by
  unfold Head.ofWord
  cases hm : mnemonicOf w with
  | none => exact BitVec.ofNat_toNat 8 w
  | some m => exact (word_of_mnemonicOf hm).symm

theorem Head.ofWord_reservedIsReserved (w : Byte) : (Head.ofWord w).reservedIsReserved = true := by
  unfold Head.ofWord
  cases hm : mnemonicOf w with
  | none =>
    have hw := mnemonicOf_eq_none_iff.1 hm
    simp [Head.reservedIsReserved, w.isLt, hw]
  | some m => rfl

/-- Settles O38: the command's line assigns every port its value, beside a head that writes the command's word. -/
theorem everyCommandHasItsLine : Obligations.EveryCommandHasItsLine := by
  intro c
  have hhead := Head.ofWord_reservedIsReserved c.word
  have hnodup : allPorts.Nodup := by decide
  rw [Line.ofCommand_eq_assign]
  refine ⟨Line.wf_assign c.ports hhead hnodup, ?_⟩
  rw [Line.command_assign hhead hnodup fun q hq => absurd (mem_allPorts q) hq, Head.ofWord_word]

/-! ## The pseudo-commands -/

/-- The ports that an instruction's row of R62 names, ALM_ENCODE's in the order of R70. -/
def Instr.namedPorts : Instr → List Port
  | .bcd2dec _ => [.a]
  | .dec2bcd _ => [.a]
  | .calDecode => []
  | .calEncodeFull .. => [.sec, .min, .hour, .wday, .day, .mon, .year]
  | .calEncodeTime .. => [.sec, .min, .hour]
  | .calEncodeDate .. => [.wday, .day, .mon, .year]
  | .almDecode _ => [.alm]
  | .almEncode .. => [.alm, .mode, .sec, .min, .hour, .wday, .day]

theorem Instr.namedPorts_nodup (i : Instr) : i.namedPorts.Nodup := by
  cases i <;> simp [Instr.namedPorts]

/-- The encoding leaves every port at 0 that the row does not name (R69). -/
theorem encode_value_of_unnamed (i : Instr) {q : Port} : q ∉ i.namedPorts → (encode i).ports.value q = 0 := by
  cases i <;> cases q <;> simp [Instr.namedPorts, encode, Ports.value, Ports.zero]

/-- A mnemonic's line that assigns the ports its row names, with the values of an instruction's encoding, stands for that
encoding. -/
theorem Line.command_eq_encode {l : Line} {m : Mnemonic} (i : Instr)
    (hline : l = ⟨.mnemonic m, (encode i).ports.assign i.namedPorts⟩) (hword : m.word = (encode i).word) :
    l.command = some (encode i) := by
  rw [hline, Line.command_assign rfl i.namedPorts_nodup fun q => encode_value_of_unnamed i, Head.word, hword]

/-- ALARM_OFF leaves the five fields unwritten, so they are 0 (R69, R70). -/
theorem alarmOff_command (n : Byte) :
    (Pseudo.alarmOff n.toNat).line.command = some (encode (.almEncode n 8 0 0 0 0 0)) := by
  have hzero : ∀ q : Port, q ∉ [.alm, .mode] → (encode (.almEncode n 8 0 0 0 0 0)).ports.value q = 0 := by
    intro q
    cases q <;> simp [encode, Ports.value, Ports.zero]
  exact Line.command_assign (hd := .mnemonic .almEncode) rfl (by decide) hzero

/-- Settles O39: each expansion of R70 assigns the ports of its command's row, but for ALARM_OFF. -/
theorem pseudoCommandsExpand : Obligations.PseudoCommandsExpand :=
  ⟨Line.command_eq_encode .calDecode rfl rfl,
    fun s m h wd d mo y => Line.command_eq_encode (.calEncodeFull s m h wd d mo y) rfl rfl,
    fun s m h => Line.command_eq_encode (.calEncodeTime s m h) rfl rfl,
    fun wd d mo y => Line.command_eq_encode (.calEncodeDate wd d mo y) rfl rfl,
    fun n => Line.command_eq_encode (.almDecode n) rfl rfl,
    fun n m s mi h wd d => Line.command_eq_encode (.almEncode n m s mi h wd d) rfl rfl,
    alarmOff_command⟩

end Sys2Proof

namespace Sys2Proof.Machine

/-! ## The modes ALM_DECODE can report -/

/-- The decode column of R64: which mode ALM_DECODE can report for an alarm, under the parameters. -/
def Reportable (p : Config.Params) (n : AlarmNum) : AlarmMode → Prop
  | .perSecond => n = .one
  | .perMinute => n = .two
  | .secondsMatch => n = .one
  | .off => p.offInference = true
  | .unknown => True
  | .minutesMatch => True
  | .hoursMatch => True
  | .dateMatch => True
  | .dayMatch => True

theorem modeCode_inj {m m' : AlarmMode} : modeCode m = modeCode m' ↔ m = m' := by
  refine ⟨fun h => ?_, congrArg modeCode⟩
  have hsome : some m = some m' := by rw [← modeOfCode_modeCode m, h, modeOfCode_modeCode]
  exact Option.some.inj hsome

/-- The low four bits of the key are the flag word, whichever way it was built (R151). -/
theorem patternKey_setWidth (c : AlarmBytes) : (patternKey c).setWidth 4 = flagWord c := by
  unfold patternKey
  split
  · next h =>
    rw [h]
    cases dayDateSelector c <;> rfl
  · simp

/-- Flag bit 0 is the match-enable bit of the Second byte (R151). -/
theorem flagWord_getLsbD_zero (c : AlarmBytes) : (flagWord c).getLsbD 0 = c.c0.getLsbD 7 :=
  BitVec.getLsbD_append.trans (by simp)

/-- Alarm 2's synthesised Second byte sets no match-enable bit (R150, R151). -/
theorem flagWord_conceptual_two_ne (b : Burst) : flagWord (conceptual .two b) ≠ 0b1111 := by
  intro h
  have hbit : (flagWord (conceptual .two b)).getLsbD 0 = false :=
    calc (flagWord (conceptual .two b)).getLsbD 0
      _ = (0x00 : Byte).getLsbD 7 := flagWord_getLsbD_zero (conceptual .two b)
      _ = false := by decide
  rw [h] at hbit
  exact absurd hbit (by decide)

/-- CLASSIFY (R152) reports what R64 admits, if a key with all four flags set is Alarm 1's. -/
theorem classify_reportable (p : Config.Params) {key : BitVec 5} {n : AlarmNum}
    (hkey : key.setWidth 4 = 0b1111 → n = .one) : Reportable p n (classify p key n) := by
  unfold classify
  dsimp only
  split_ifs with hall hsec
  · exact hkey hall
  · cases n <;> rfl
  all_goals trivial

theorem classify_conceptual_reportable (p : Config.Params) (n : AlarmNum) (b : Burst) :
    Reportable p n (classify p (patternKey (conceptual n b)) n) := by
  refine classify_reportable p fun hkey => ?_
  rw [patternKey_setWidth] at hkey
  cases n with
  | one => rfl
  | two => exact absurd hkey (flagWord_conceptual_two_ne b)

theorem offInference_of_offInferred {p : Config.Params} {mode : AlarmMode} {fields : Results}
    (h : offInferred p mode fields = true) : p.offInference = true :=
  (Bool.and_eq_true_iff.1 h).1

/-- MODE is the code of a mode that R64 admits, the Off post-correction (R153) included. -/
theorem alarmResults_mode_reportable (p : Config.Params) (n : AlarmNum) (b : Burst) :
    ∃ m, (alarmResults p n (conceptual n b)).mode = modeCode m ∧ Reportable p n m := by
  refine ⟨_, rfl, ?_⟩
  split
  · next hoff => exact offInference_of_offInferred hoff
  · exact classify_conceptual_reportable p n b

theorem planOf_almDecode_valid (p : Config.Params) (n : AlarmNum) :
    planOf p (.almDecode (alarmBlock n).1)
      = .read (alarmBase n) (alarmLen n) fun b => alarmResults p n (conceptual n b) := by
  cases n <;> rfl

/-- Settles O19: the reported mode is one that R64 admits, and its code tells which. -/
theorem modesDecodeCanReport : Obligations.ModesDecodeCanReport := by
  intro n s t h
  rw [exec_eq_plan, planOf_almDecode_valid] at h
  obtain rfl : _ = t := by simpa using h
  obtain ⟨m, hm, hrep⟩ :=
    alarmResults_mode_reportable s.params n (s.readBurst (alarmBase n) (alarmLen n))
  rw [Plan.run_out, Plan.results, Results.record_mode, hm]
  have hcode : ∀ m', modeCode m = modeCode m' → Reportable s.params n m' := fun m' h => modeCode_inj.1 h ▸ hrep
  exact ⟨modeCode_le m, hcode .perSecond, hcode .perMinute, hcode .secondsMatch, hcode .off⟩

end Sys2Proof.Machine
end

section
/-! PROOF. The family of 40_bcd.md. BCD2DEC and DEC2BCD (R104, R105) are quiet plans, so O7 and O8 are their results in
plain arithmetic. The conversion laws (R106): to BCD and back is the remainder modulo 160; back to BCD is the identity
on a byte with a decimal low nibble, the only low nibble that DEC2BCD8 makes. The hour rule (R103) is its two forms in
tens and units. -/

namespace Sys2Proof.Machine

/-! ## The two commands -/

theorem Plan.quiet_effect (s : State) (y status : Byte) : QuietEffect s ((Plan.quiet y status).run s) :=
  ⟨rfl, rfl, rfl, rfl, rfl, rfl⟩

/-- An instruction with a quiet plan leaves the plan's Y and STATUS, every other result register 0, and all else as it
was. -/
theorem exec_of_quiet_plan {i : Instr} {s : State} {y status : Byte} (h : planOf s.params i = .quiet y status) :
    ∃ t, exec i s = .next t ∧ QuietEffect s t
      ∧ t.out.y = y ∧ t.out = { Results.zero with y := t.out.y, status := status } :=
  ⟨_, by rw [exec_eq_plan, h], Plan.quiet_effect s y status, rfl, rfl⟩

/-- BCD2DEC fits in a byte, so no value wraps (R100). -/
@[simp] theorem trunc8_bcd2dec_toNat (v : Byte) : (trunc8 (bcd2dec v)).toNat = bcd2dec v :=
  Nat.mod_eq_of_lt ((bcd2dec_le v).trans_lt (by decide))

theorem dec2bcd8_toNat (v : Byte) : (dec2bcd8 v).toNat = (v.toNat / 10 * 16 + v.toNat % 10) % 256 := rfl

/-- Settles O7: the plan's Y is BCD2DEC(a), which does not wrap. -/
theorem bcd2decResult : Obligations.Bcd2decResult := by
  intro a s
  obtain ⟨t, hexec, hquiet, hy, hout⟩ := exec_of_quiet_plan (i := .bcd2dec a) (s := s) rfl
  refine ⟨t, hexec, hquiet, ?_, hout⟩
  rw [hy, trunc8_bcd2dec_toNat, bcd2dec]

/-- Settles O8: the plan's Y is DEC2BCD8(a). -/
theorem dec2bcdResult : Obligations.Dec2bcdResult := by
  intro a s
  obtain ⟨t, hexec, hquiet, hy, hout⟩ := exec_of_quiet_plan (i := .dec2bcd a) (s := s) rfl
  refine ⟨t, hexec, hquiet, ?_, hout⟩
  rw [hy, dec2bcd8_toNat]

/-! ## The conversion laws -/

/-- Encoding to BCD and back is the identity up to 159; above, the bit that R102 drops is worth 160. -/
theorem bcd2dec_dec2bcd8_eq_mod (v : Byte) : bcd2dec (dec2bcd8 v) = v.toNat % 160 := by
  have hv := v.isLt
  rw [bcd2dec, dec2bcd8_toNat]
  omega

/-- An encoded byte ends in a decimal digit. -/
theorem dec2bcd8_lowNibble (v : Byte) : (dec2bcd8 v).toNat % 16 = v.toNat % 10 := by
  rw [dec2bcd8_toNat]
  omega

/-- A low nibble that is a decimal digit is the units of BCD2DEC, so the tens are the high nibble, whatever it is. -/
theorem dec2bcd8_bcd2dec {b : Byte} (hb : b.toNat % 16 ≤ 9) : dec2bcd8 (trunc8 (bcd2dec b)) = b := by
  have hlt := b.isLt
  have htens : bcd2dec b / 10 = b.toNat / 16 := by
    rw [bcd2dec]
    omega
  have hunits : bcd2dec b % 10 = b.toNat % 16 := by
    rw [bcd2dec]
    omega
  refine BitVec.eq_of_toNat_eq ?_
  rw [dec2bcd8_toNat, trunc8_bcd2dec_toNat, htens, hunits]
  omega

/-- Settles O9. -/
theorem bcdConversionLaws : Obligations.BcdConversionLaws := by
  constructor
  · intro v
    rw [bcd2dec_dec2bcd8_eq_mod]
    exact Nat.mod_eq_iff_lt (by decide)
  · intro b
    constructor
    · intro h
      have hlow := dec2bcd8_lowNibble (BitVec.ofNat 8 (bcd2dec b))
      rw [h] at hlow
      omega
    · exact dec2bcd8_bcd2dec

/-- Refutes O10: BCD2DEC(0xA0) = 100 and DEC2BCD8(100) = 0xA0, yet the high nibble of 0xA0 is 10 (log entry 13). -/
theorem not_bcdConversionLawsAsWritten : ¬ Obligations.BcdConversionLawsAsWritten := by
  rintro ⟨-, -, hc⟩
  have hback : dec2bcd8 (BitVec.ofNat 8 (bcd2dec 0xA0)) = 0xA0 := by decide
  obtain ⟨hhigh, -⟩ := (hc 0xA0).1 hback
  exact absurd hhigh (by decide)

/-! ## The hour rule -/

theorem toNat_and_mask (b : Byte) {k : Nat} (hk : k ≤ 8) :
    (b &&& BitVec.ofNat 8 (2 ^ k - 1)).toNat = b.toNat % 2 ^ k := by
  have hmask : 2 ^ k - 1 < 2 ^ 8 := (Nat.sub_lt (Nat.two_pow_pos k) one_pos).trans_le (Nat.pow_le_pow_right two_pos hk)
  rw [BitVec.toNat_and, BitVec.toNat_ofNat, Nat.mod_eq_of_lt hmask, Nat.and_two_pow_sub_one_eq_mod]

/-- BCD2DEC of the low bits of a byte, at least the low nibble, in tens and units. -/
theorem bcd2dec_and_mask (b : Byte) {k : Nat} (hk4 : 4 ≤ k) (hk8 : k ≤ 8) :
    bcd2dec (b &&& BitVec.ofNat 8 (2 ^ k - 1)) = b.toNat % 2 ^ k / 16 * 10 + b.toNat % 16 := by
  rw [bcd2dec, toNat_and_mask b hk8, Nat.mod_mod_of_dvd _ (Nat.pow_dvd_pow 2 hk4)]

/-- The 12-hour form (R103): bits 4:0 in BCD, and 12 more if bit 5 says PM. -/
theorem hourdec_twelveHour {b : Byte} (h : b.getLsbD 6 = true) :
    hourdec b = b.toNat % 32 / 16 * 10 + b.toNat % 16 + if b.getLsbD 5 then 12 else 0 := by
  rw [hourdec, if_pos h, show bcd2dec (b &&& 0x1F) = _ from bcd2dec_and_mask b (k := 5) (by decide) (by decide)]
  split <;> rfl

/-- The 24-hour form (R103): bits 5:0 in BCD. -/
theorem hourdec_twentyFourHour {b : Byte} (h : b.getLsbD 6 = false) :
    hourdec b = b.toNat % 64 / 16 * 10 + b.toNat % 16 := by
  rw [hourdec, if_neg (Bool.eq_false_iff.1 h)]
  exact bcd2dec_and_mask b (k := 6) (by decide) (by decide)

/-- Flipping bit 7 shows under no mask that leaves it out. -/
theorem flip_bit7_and {m : Byte} (b : Byte) (hm : 0x80 &&& m = 0) : (b ^^^ 0x80) &&& m = b &&& m :=
  calc (b ^^^ 0x80) &&& m
      _ = (b &&& m) ^^^ (0x80 &&& m) := BitVec.eq_of_toNat_eq Nat.and_xor_distrib_right
      _ = b &&& m := by simpa using hm

/-- Bit 7 is never read (R103). -/
theorem hourdec_flip_bit7 (b : Byte) : hourdec (b ^^^ 0x80) = hourdec b := by
  have h5 : (b ^^^ 0x80).getLsbD 5 = b.getLsbD 5 := by simp
  have h6 : (b ^^^ 0x80).getLsbD 6 = b.getLsbD 6 := by simp
  rw [hourdec, h5, h6, flip_bit7_and b (by decide), flip_bit7_and b (by decide), ← hourdec]

theorem hourdec_twelveHour_le {b : Byte} (h : b.getLsbD 6 = true) : hourdec b ≤ 37 := by
  rw [hourdec_twelveHour h]
  split <;> omega

/-- Settles O11: the two forms by their equations, the corner cases by evaluation. -/
theorem hourRule : Obligations.HourRule := by
  refine ⟨fun b => ⟨hourdec_twelveHour, hourdec_twentyFourHour, hourdec_flip_bit7 b, ?_, hourdec_twelveHour_le⟩, ?_⟩
  · exact (hourField_toNat b).2
  · decide

end Sys2Proof.Machine
end

section
/-! PROOF. The family of 41_calendar.md. What a read plan and a write plan do to a state is said once
(`exec_of_read_plan`, `exec_of_write_plan`); O12 to O15 are the calendar commands' plans with their bytes written out.
The masks of R120 leave out the bits that O25 lets differ, and let an encoded field pass, which is the round trip of
R126 (O26). -/

namespace Sys2Proof.Machine

/-! ## The effect of a burst -/

theorem Results.record_txnLen_toNat (r : Results) {b : Burst} (hb : b.bytes.length ≤ 7) :
    (r.record b).txnLen.toNat = b.bytes.length :=
  Nat.mod_eq_of_lt (Nat.lt_succ_of_le hb)

/-- Byte `i` of a read: the byte at address `base + i` inside its length, 0 beyond (R7, R22). -/
theorem State.readBurst_byte_toNat (s : State) (base : Byte) (n i : Nat) :
    ((s.readBurst base n).byte i).toNat = if i < n then (s.answer (base.toNat + i)).toNat else 0 := by
  split
  case isTrue h => rw [s.readBurst_byte base h]
  case isFalse h => rw [Burst.byte_beyond _ (by simpa using h)]; rfl

theorem Plan.read_effect {s : State} {base : Byte} {n : Nat} {fields : Burst → Results} (hn : n ≤ 7)
    (hy : (fields (s.readBurst base n)).y = 0) : ReadEffect s ((Plan.read base n fields).run s) base n where
  burst := rfl
  rb i := (Results.record_get_rb _ _ i).trans (s.readBurst_byte_toNat base n i)
  txn := ⟨rfl, rfl, (Results.record_txnLen_toNat _ (by simpa using hn)).trans (s.answers_length _ n)⟩
  noY := hy
  delivered := rfl
  snapshots := rfl
  draws := rfl
  params := rfl
  host := rfl

theorem Plan.write_effect (s : State) (base : Byte) {v : List Byte} (status : Byte) (hv : v.length ≤ 7) :
    WriteEffect s ((Plan.write base v status).run s) base v status where
  burst := rfl
  rb i := Results.record_get_rb _ _ i
  txn := ⟨rfl, rfl, Results.record_txnLen_toNat _ hv⟩
  status := rfl
  fields := ⟨rfl, rfl, rfl, rfl, rfl, rfl, rfl, rfl, rfl⟩
  stored _ h := Memory.find_storeBytes_inside h
  kept _ h := Memory.find_storeBytes_outside h
  snapshots := rfl
  draws := rfl
  params := rfl
  host := rfl

/-- An instruction with a read plan leaves the fields of the bytes it read, and their record. -/
theorem exec_of_read_plan {i : Instr} {s : State} {base : Byte} {n : Nat} {fields : Burst → Results}
    (h : planOf s.params i = .read base n fields) (hn : n ≤ 7) (hy : (fields (s.readBurst base n)).y = 0) :
    ∃ t, exec i s = .next t ∧ ReadEffect s t base n
      ∧ t.out = (fields (s.readBurst base n)).record (s.readBurst base n) :=
  ⟨_, by rw [exec_eq_plan, h], Plan.read_effect hn hy, rfl⟩

/-- An instruction with a write plan delivers and records the plan's bytes. -/
theorem exec_of_write_plan {i : Instr} {s : State} {base : Byte} {v : List Byte} {status : Byte}
    (h : planOf s.params i = .write base v status) (hv : v.length ≤ 7) :
    ∃ t, exec i s = .next t ∧ WriteEffect s t base v status :=
  ⟨_, by rw [exec_eq_plan, h], Plan.write_effect s base status hv⟩

/-! ## CAL_DECODE -/

/-- What CAL_DECODE leaves of the bytes a state answers at 0x00 to 0x06, field by field (R120). -/
structure DecodesCalendar (s : State) (r : Results) : Prop where
  sec : r.sec = sexagesimalField (s.answer 0)
  min : r.min = sexagesimalField (s.answer 1)
  hour : r.hour = hourField (s.answer 2)
  wday : r.wday = weekdayField (s.answer 3)
  day : r.day = dayField (s.answer 4)
  mon : r.mon = monthField (s.answer 5)
  year : r.year = yearField (s.answer 6) (s.answer 5)
  mode : r.mode = 0
  status : r.status = 0x01

theorem calendarFields_decodes {s : State} {b : Burst} (hb : ∀ i < 7, b.byte i = s.answer i) :
    DecodesCalendar s ((calendarFields b).record b) where
  sec := congrArg sexagesimalField (hb 0 (by decide))
  min := congrArg sexagesimalField (hb 1 (by decide))
  hour := congrArg hourField (hb 2 (by decide))
  wday := congrArg weekdayField (hb 3 (by decide))
  day := congrArg dayField (hb 4 (by decide))
  mon := congrArg monthField (hb 5 (by decide))
  year := congrArg₂ yearField (hb 6 (by decide)) (hb 5 (by decide))
  mode := rfl
  status := rfl

theorem exec_calDecode (s : State) :
    ∃ t, exec .calDecode s = .next t ∧ ReadEffect s t 0x00 7 ∧ DecodesCalendar s t.out := by
  obtain ⟨t, hexec, heffect, hout⟩ :=
    exec_of_read_plan (i := .calDecode) (s := s) (base := 0x00) (n := 7) (fields := calendarFields) rfl le_rfl rfl
  refine ⟨t, hexec, heffect, hout ▸ calendarFields_decodes fun i hi => ?_⟩
  simpa using s.readBurst_byte 0x00 hi

/-- Settles O12: the fields of R120, none of which wraps. -/
theorem calDecodeResult : Obligations.CalDecodeResult := by
  intro s
  obtain ⟨t, hexec, heffect, hd⟩ := exec_calDecode s
  refine ⟨t, hexec, heffect, ?sec, ?min, ?hour, ?wday, ?day, ?mon, ?year, hd.mode, hd.status⟩
  case sec => rw [hd.sec, (sexagesimalField_toNat _).1]
  case min => rw [hd.min, (sexagesimalField_toNat _).1]
  case hour => rw [hd.hour, (hourField_toNat _).1]
  case wday => rw [hd.wday, (weekdayField_eq _).1]
  case day => rw [hd.day, (dayField_toNat _).1]
  case mon => rw [hd.mon, (monthField_toNat _).1]
  case year => rw [hd.year, (yearField_toNat _ _).1, centuryFlag]

/-! ## The bits that the masks leave out -/

/-- Bytes that agree under a mask agree under every narrower one. -/
theorem and_congr_of_narrower {a b m : Byte} (h : a &&& m = b &&& m) {k : Byte} (hk : m &&& k = k) :
    a &&& k = b &&& k := by
  rw [← hk, ← BitVec.and_assoc, h, BitVec.and_assoc]

/-- Bytes that agree under a mask agree in each of its bits. -/
theorem getLsbD_congr_of_and {a b m : Byte} (h : a &&& m = b &&& m) {i : Nat} (hi : m.getLsbD i = true) :
    a.getLsbD i = b.getLsbD i := by
  simpa [hi] using congrArg (BitVec.getLsbD · i) h

theorem sexagesimalField_congr {a b : Byte} (h : a &&& 0x7F = b &&& 0x7F) :
    sexagesimalField a = sexagesimalField b := by
  rw [sexagesimalField, h, sexagesimalField]

/-- The hour form, PM and both BCD fields stand in bits 6:0 (R103). -/
theorem hourField_congr {a b : Byte} (h : a &&& 0x7F = b &&& 0x7F) : hourField a = hourField b := by
  rw [hourField, hourdec, getLsbD_congr_of_and h (i := 6) rfl, getLsbD_congr_of_and h (i := 5) rfl,
    and_congr_of_narrower h (k := 0x1F) rfl, and_congr_of_narrower h (k := 0x3F) rfl, ← hourdec, ← hourField]

theorem weekdayField_congr {a b : Byte} (h : a &&& 0x07 = b &&& 0x07) : weekdayField a = weekdayField b := by
  rw [weekdayField, h, weekdayField]

theorem dayField_congr {a b : Byte} (h : a &&& 0x3F = b &&& 0x3F) : dayField a = dayField b := by
  rw [dayField, h, dayField]

/-- The Month byte holds the month in bits 4:0 and the century flag in bit 7 (R28). -/
theorem monthField_congr {a b : Byte} (h : a &&& 0x9F = b &&& 0x9F) : monthField a = monthField b := by
  rw [monthField, and_congr_of_narrower h (k := 0x1F) rfl, monthField]

theorem yearField_congr {a b : Byte} (y : Byte) (h : a &&& 0x9F = b &&& 0x9F) : yearField y a = yearField y b := by
  have hflag : centuryFlag a = centuryFlag b := getLsbD_congr_of_and h rfl
  rw [yearField, hflag, yearField]

/-- Settles O25: each field is the same function of bytes that agree under its mask. -/
theorem maskedBitsNeverMatter : Obligations.MaskedBitsNeverMatter := by
  intro s u t v h0 h1 h2 h3 h4 h5 h6 ht hv
  obtain ⟨_, ht', -, hs⟩ := exec_calDecode s
  obtain ⟨_, hv', -, hu⟩ := exec_calDecode u
  obtain rfl : _ = t := by simpa using ht'.symm.trans ht
  obtain rfl : _ = v := by simpa using hv'.symm.trans hv
  refine ⟨?sec, ?min, ?hour, ?wday, ?day, ?mon, ?year⟩
  case sec => rw [hs.sec, hu.sec, sexagesimalField_congr h0]
  case min => rw [hs.min, hu.min, sexagesimalField_congr h1]
  case hour => rw [hs.hour, hu.hour, hourField_congr h2]
  case wday => rw [hs.wday, hu.wday, weekdayField_congr h3]
  case day => rw [hs.day, hu.day, dayField_congr h4]
  case mon => rw [hs.mon, hu.mon, monthField_congr h5]
  case year => rw [hs.year, hu.year, h6, yearField_congr _ h5]

/-! ## The three encodes -/

theorem normwd_of_invalid {w : Byte} (h : w = 0 ∨ 7 < w.toNat) : normwd w = 1 := if_pos h

theorem normwd_of_valid {w : Byte} (h : 1 ≤ w.toNat ∧ w.toNat ≤ 7) : normwd w = w := by
  refine if_neg ?_
  rintro (rfl | h7)
  · exact absurd h.1 (by decide)
  · omega

/-- One decimal digit is its own BCD. -/
theorem dec2bcd8_of_lt_ten {v : Byte} (hv : v.toNat < 10) : dec2bcd8 v = v := by
  refine BitVec.eq_of_toNat_eq ?_
  rw [dec2bcd8_toNat]
  omega

theorem dec2bcd8_normwd (w : Byte) : dec2bcd8 (normwd w) = if w = 0 ∨ w.toNat > 7 then 0x01 else w :=
  dec2bcd8_of_lt_ten (Nat.lt_of_le_of_lt (normwd_range w).2 (by decide))

theorem trunc8_mod_hundred_toNat (n : Nat) : (trunc8 (n % 100)).toNat = n % 100 :=
  Nat.mod_eq_of_lt ((Nat.mod_lt n (by decide)).trans (by decide))

/-- The Year byte (R122) is the tens and the units of the year in its century. -/
theorem dec2bcd8_year (n : Nat) :
    dec2bcd8 (trunc8 (n % 100)) = BitVec.ofNat 8 (n % 100 / 10 * 16 + n % 10) := by
  rw [dec2bcd8, trunc8_mod_hundred_toNat, dec2bcd, Nat.mod_mod_of_dvd n (by decide : 10 ∣ 100)]

/-- The last four CALBYTES (R122), with NORMWD and the Year digits written out. -/
theorem dateBytes_eq (wday day mon : Byte) (year : BitVec 9) :
    dateBytes wday day mon year =
      [if wday = 0 ∨ wday.toNat > 7 then 0x01 else wday,
        dec2bcd8 day, dec2bcd8 mon ||| (if year.toNat ≥ 100 then 0x80 else 0x00),
        BitVec.ofNat 8 (year.toNat % 100 / 10 * 16 + year.toNat % 10)] := by
  rw [dateBytes, dec2bcd8_normwd, dec2bcd8_year]

/-- WDNORM reports exactly the weekdays outside 1 to 7 (R121, R123). -/
theorem statusWeekday_weekdayChanged (w : Byte) :
    statusWeekday (weekdayChanged w) = if w = 0 ∨ w.toNat > 7 then 0x11 else 0x01 := by
  unfold weekdayChanged normwd
  split
  case isTrue h =>
    have hw : (1 : Byte) ≠ w := by
      rintro rfl
      exact absurd h (by decide)
    rw [bne_iff_ne.2 hw]
    rfl
  case isFalse => rw [bne_self_eq_false]; rfl

/-- Settles O14: the plan's three bytes, all below the date part. -/
theorem calEncodeTimeResult : Obligations.CalEncodeTimeResult :=
  fun _ _ _ _ => exec_of_write_plan rfl (by simp)

theorem exec_calEncodeFull (sec min hour wday day mon : Byte) (year : BitVec 9) (s : State) :
    ∃ t, exec (.calEncodeFull sec min hour wday day mon year) s = .next t
      ∧ WriteEffect s t 0x00 (timeBytes sec min hour ++ dateBytes wday day mon year)
          (statusWeekday (weekdayChanged wday)) :=
  exec_of_write_plan rfl (by simp [timeBytes, dateBytes])

/-- Settles O13: the plan's seven bytes and its STATUS, written out. -/
theorem calEncodeFullResult : Obligations.CalEncodeFullResult := by
  intro sec min hour wday day mon year s
  have h := exec_calEncodeFull sec min hour wday day mon year s
  rwa [dateBytes_eq, statusWeekday_weekdayChanged] at h

/-- Settles O15: the plan's four bytes and its STATUS, written out. -/
theorem calEncodeDateResult : Obligations.CalEncodeDateResult := by
  intro wday day mon year s
  rw [← dateBytes_eq, ← statusWeekday_weekdayChanged]
  exact exec_of_write_plan rfl (by simp [dateBytes])

/-! ## The round trip -/

/-- An encoded value passes a mask that it fits under, and decodes to itself (R106). -/
theorem trunc8_bcd2dec_and_mask_dec2bcd8 {v : Byte} {k : Nat} (hk : k ≤ 8)
    (hv : v.toNat / 10 * 16 + v.toNat % 10 < 2 ^ k) :
    trunc8 (bcd2dec (dec2bcd8 v &&& BitVec.ofNat 8 (2 ^ k - 1))) = v := by
  have hbyte : v.toNat / 10 * 16 + v.toNat % 10 < 256 := hv.trans_le (Nat.pow_le_pow_right two_pos hk)
  have hmask : dec2bcd8 v &&& BitVec.ofNat 8 (2 ^ k - 1) = dec2bcd8 v := by
    refine BitVec.eq_of_toNat_eq ?_
    rw [toNat_and_mask _ hk, dec2bcd8_toNat, Nat.mod_eq_of_lt hbyte, Nat.mod_eq_of_lt hv]
  refine BitVec.eq_of_toNat_eq ?_
  rw [hmask, trunc8_bcd2dec_toNat, bcd2dec_dec2bcd8 v (by omega)]

theorem sexagesimalField_dec2bcd8 {v : Byte} (hv : v.toNat < 80) : sexagesimalField (dec2bcd8 v) = v :=
  trunc8_bcd2dec_and_mask_dec2bcd8 (k := 7) (by decide) (by omega)

theorem weekdayField_dec2bcd8 {v : Byte} (hv : v.toNat < 8) : weekdayField (dec2bcd8 v) = v :=
  trunc8_bcd2dec_and_mask_dec2bcd8 (k := 3) (by decide) (by omega)

theorem dayField_dec2bcd8 {v : Byte} (hv : v.toNat < 40) : dayField (dec2bcd8 v) = v :=
  trunc8_bcd2dec_and_mask_dec2bcd8 (k := 6) (by decide) (by omega)

theorem monthField_dec2bcd8 {v : Byte} (hv : v.toNat < 20) : monthField (dec2bcd8 v) = v :=
  trunc8_bcd2dec_and_mask_dec2bcd8 (k := 5) (by decide) (by omega)

/-- No bit of an encoded value stands at or above a power of 2 that bounds it. -/
theorem dec2bcd8_getLsbD_of_lt {v : Byte} {i : Nat} (hv : v.toNat / 10 * 16 + v.toNat % 10 < 2 ^ i) :
    (dec2bcd8 v).getLsbD i = false :=
  Nat.testBit_lt_two_pow (Nat.lt_of_le_of_lt (Nat.mod_le _ _) hv)

/-- An encoded hour below 40 leaves bit 6 clear: it is read in the 24-hour form (R103). -/
theorem hourField_dec2bcd8 {v : Byte} (hv : v.toNat < 40) : hourField (dec2bcd8 v) = v := by
  have h24 : (dec2bcd8 v).getLsbD 6 = false := dec2bcd8_getLsbD_of_lt (by omega)
  rw [hourField, hourdec, if_neg (Bool.eq_false_iff.1 h24)]
  exact dayField_dec2bcd8 hv

/-- The century flag stands outside the month's mask (R28). -/
theorem monthField_or_century (b : Byte) (p : Prop) [Decidable p] :
    monthField (b ||| if p then 0x80 else 0x00) = monthField b := by
  have hmask : (b ||| if p then 0x80 else 0x00) &&& 0x1F = b &&& 0x1F := by
    split
    · rw [BitVec.and_or_distrib_right]
      exact BitVec.or_zero
    · exact congrArg (· &&& 0x1F) BitVec.or_zero
  rw [monthField, hmask, monthField]

theorem centuryFlag_or_century {v : Byte} (hv : v.toNat < 80) (p : Prop) [Decidable p] :
    centuryFlag (dec2bcd8 v ||| if p then 0x80 else 0x00) = decide p := by
  have hclear : (dec2bcd8 v).getLsbD 7 = false := dec2bcd8_getLsbD_of_lt (by omega)
  rw [centuryFlag, BitVec.getLsbD_or, hclear, Bool.false_or]
  by_cases hp : p <;> simp [hp]

/-- The year in its century, and the century flag, give the year back up to 199. -/
theorem yearField_dec2bcd8 {y : BitVec 9} {m : Byte} (hy : y.toNat ≤ 199)
    (hm : centuryFlag m = decide (100 ≤ y.toNat)) : yearField (dec2bcd8 (trunc8 (y.toNat % 100))) m = y := by
  refine BitVec.eq_of_toNat_eq ?_
  rw [(yearField_toNat _ _).1, bcd2dec_dec2bcd8_eq_mod, trunc8_mod_hundred_toNat, hm]
  simp only [decide_eq_true_eq]
  split <;> omega

/-- Settles O26: each field is the inverse of its encoded byte on the field's valid values. -/
theorem calendarRoundTrip : Obligations.CalendarRoundTrip := by
  intro sec min hour wday day mon year s hsec hmin hhour _ hday _ hmon hyear
  obtain ⟨t, hexec, hwrite⟩ := exec_calEncodeFull sec min hour wday day mon year s
  refine ⟨t, _, hexec, hwrite.burst, fun u hu => ?_⟩
  obtain ⟨v, hdecode, -, hd⟩ := exec_calDecode u
  have h0 : u.answer 0 = dec2bcd8 sec := hu 0 (by decide)
  have h1 : u.answer 1 = dec2bcd8 min := hu 1 (by decide)
  have h2 : u.answer 2 = dec2bcd8 hour := hu 2 (by decide)
  have h3 : u.answer 3 = dec2bcd8 (normwd wday) := hu 3 (by decide)
  have h4 : u.answer 4 = dec2bcd8 day := hu 4 (by decide)
  have h5 : u.answer 5 = dec2bcd8 mon ||| if 100 ≤ year.toNat then 0x80 else 0x00 := hu 5 (by decide)
  have h6 : u.answer 6 = dec2bcd8 (trunc8 (year.toNat % 100)) := hu 6 (by decide)
  have hwday : v.out.wday = normwd wday := by
    rw [hd.wday, h3, weekdayField_dec2bcd8 (Nat.lt_succ_of_le (normwd_range wday).2)]
  refine ⟨v, hdecode, ?sec, ?min, ?hour, fun h => ?valid, fun h => ?invalid, ?day, ?mon, ?year⟩
  case sec => rw [hd.sec, h0, sexagesimalField_dec2bcd8 (by omega)]
  case min => rw [hd.min, h1, sexagesimalField_dec2bcd8 (by omega)]
  case hour => rw [hd.hour, h2, hourField_dec2bcd8 (by omega)]
  case valid => rw [hwday, normwd_of_valid h]
  case invalid => rw [hwday, normwd_of_invalid h]
  case day => rw [hd.day, h4, dayField_dec2bcd8 (by omega)]
  case mon => rw [hd.mon, h5, monthField_or_century, monthField_dec2bcd8 (by omega)]
  case year => rw [hd.year, h6, h5, yearField_dec2bcd8 hyear (centuryFlag_or_century (by omega) _)]

end Sys2Proof.Machine
end

section
/-! PROOF. The family of 42_alarm.md. CLASSIFY of a pattern key is said once in terms of the flag word
(`classify_patternKey`), and the table of R152 is read off it (O16). ALM_DECODE and ALM_ENCODE are a read plan and a
write plan, or a quiet plan for what R202 turns away (O17, O18). For the round trip of R164 (O27), a byte of a pattern
is `0x80` or an encoded field; either way its match-enable bit and its field come back, so the alarm's own bytes
classify as the mode that R164 lists. -/

namespace Sys2Proof.Machine

/-! ## The mode of a flag word -/

/-- CLASSIFY of the pattern key as a function of the flag word; DY/DT decides only when the word is 0 (R151, R152). -/
theorem classify_patternKey (p : Config.Params) (n : AlarmNum) (c : AlarmBytes) :
    classify p (patternKey c) n =
      if flagWord c = 0b1111 then .perSecond
      else if flagWord c = 0b1110 then if n = .one then .secondsMatch else .perMinute
      else if flagWord c = minPatternWord p then .minutesMatch
      else if flagWord c = 0b1000 then .hoursMatch
      else if flagWord c = 0b0000 then if dayDateSelector c then .dayMatch else .dateMatch
      else .unknown := by
  unfold classify
  rw [patternKey_setWidth]
  by_cases h0 : flagWord c = 0b0000
  · rw [patternKey, if_pos h0, h0]
    obtain ⟨mp, off⟩ := p
    cases mp <;> cases dayDateSelector c <;> rfl
  · have hkey : ∀ key : BitVec 5, key.setWidth 4 = 0b0000 → patternKey c ≠ key := by
      rintro key hk rfl
      exact h0 (patternKey_setWidth c ▸ hk)
    rw [if_neg (hkey 0b00000 rfl), if_neg (hkey 0b10000 rfl), if_neg h0]
    cases n <;> rfl

/-- Settles O16: by `classify_patternKey` both sides are functions of the four match-enable bits and DY/DT, and they
agree on all 32 of their values, for each alarm and each P_MIN_PATTERN. -/
theorem modeOfEveryFlagWord : Obligations.ModeOfEveryFlagWord := by
  intro p n c
  rw [classify_patternKey, flagWord, ← dayDateSelector]
  generalize c.c3.getLsbD 7 = b3, c.c2.getLsbD 7 = b2, c.c1.getLsbD 7 = b1, c.c0.getLsbD 7 = b0, dayDateSelector c = dy
  obtain ⟨mp, off⟩ := p
  cases mp <;> cases n <;> revert b3 b2 b1 b0 dy off <;> decide

/-! ## The alarm's number and block -/

theorem alarmOf_alarmBlock (n : AlarmNum) : alarmOf (alarmBlock n).1 = some n := by cases n <;> rfl

theorem alarmOf_eq_none {alm : Byte} (h1 : alm ≠ 1) (h2 : alm ≠ 2) : alarmOf alm = none := by
  rw [alarmOf, if_neg h1, if_neg h2]

theorem alarmBlock_snd (n : AlarmNum) : (alarmBlock n).2 = (alarmBase n, alarmLen n) := by cases n <;> rfl

theorem alarmLen_le_seven (n : AlarmNum) : alarmLen n ≤ 7 := by cases n <;> decide

theorem exec_eq_of_quiet_plan {i : Instr} {s : State} {y status : Byte} (h : planOf s.params i = .quiet y status) :
    exec i s = .next { s with out := .quiet y status } := by
  rw [exec_eq_plan, h]
  rfl

/-! ## ALM_DECODE -/

/-- The conceptual bytes of an alarm that a state answers at the alarm's block (R150). -/
def State.alarmBytes (s : State) : AlarmNum → AlarmBytes
  | .one => ⟨s.answer 0x07, s.answer 0x08, s.answer 0x09, s.answer 0x0A⟩
  | .two => ⟨0x00, s.answer 0x0B, s.answer 0x0C, s.answer 0x0D⟩

theorem conceptual_readBurst (s : State) (n : AlarmNum) :
    conceptual n (s.readBurst (alarmBase n) (alarmLen n)) = s.alarmBytes n := by
  cases n <;> rfl

/-- What ALM_DECODE leaves of an alarm's conceptual bytes, field by field (R151 to R154). -/
structure DecodesAlarm (p : Config.Params) (n : AlarmNum) (c : AlarmBytes) (r : Results) : Prop where
  sec : r.sec = if n = .one then sexagesimalField c.c0 else 0
  min : r.min = sexagesimalField c.c1
  hour : r.hour = hourField c.c2
  day : r.day = if dayDateSelector c then 0 else dayField c.c3
  wday : r.wday = if dayDateSelector c then weekdayField c.c3 else 0
  mon : r.mon = 0
  year : r.year = 0
  mode : r.mode =
    modeCode (if offInferred p (classify p (patternKey c) n) r then .off else classify p (patternKey c) n)
  status : r.status = statusOff (offInferred p (classify p (patternKey c) n) r)

theorem alarmResults_decodes (p : Config.Params) (n : AlarmNum) (c : AlarmBytes) (b : Burst) :
    DecodesAlarm p n c ((alarmResults p n c).record b) where
  sec := by cases n <;> rfl
  min := rfl
  hour := rfl
  day := rfl
  wday := rfl
  mon := rfl
  year := rfl
  mode := rfl
  status := rfl

theorem exec_almDecode (n : AlarmNum) (s : State) :
    ∃ t, exec (.almDecode (alarmBlock n).1) s = .next t ∧ ReadEffect s t (alarmBlock n).2.1 (alarmBlock n).2.2
      ∧ DecodesAlarm s.params n (s.alarmBytes n) t.out := by
  obtain ⟨t, hexec, heffect, hout⟩ := exec_of_read_plan (planOf_almDecode_valid s.params n) (alarmLen_le_seven n) rfl
  refine ⟨t, hexec, ?_, ?_⟩
  · rwa [alarmBlock_snd]
  · rw [hout, conceptual_readBurst]
    exact alarmResults_decodes _ _ _ _

theorem planOf_almDecode_badNumber (p : Config.Params) {alm : Byte} (h1 : alm ≠ 1) (h2 : alm ≠ 2) :
    planOf p (.almDecode alm) = .quiet 0 statusEalm := by
  simp only [planOf, alarmOf_eq_none h1 h2]

/-- The Off post-correction (R153), as a condition on the classified mode and the populated fields. -/
theorem offInferred_iff {p : Config.Params} {m : AlarmMode} {r : Results} :
    offInferred p m r = true
      ↔ p.offInference = true ∧ (m = .dateMatch ∧ r.day = 0 ∨ m = .dayMatch ∧ r.wday = 0) := by
  simp [offInferred]

theorem DecodesAlarm.of_offInferred {p : Config.Params} {n : AlarmNum} {c : AlarmBytes} {r : Results}
    (hd : DecodesAlarm p n c r) (h : offInferred p (classify p (patternKey c) n) r = true) :
    r.mode = 8 ∧ r.status = 0x21 := by
  rw [hd.mode, hd.status, h]
  exact ⟨rfl, rfl⟩

theorem DecodesAlarm.of_not_offInferred {p : Config.Params} {n : AlarmNum} {c : AlarmBytes} {r : Results}
    (hd : DecodesAlarm p n c r) (h : offInferred p (classify p (patternKey c) n) r ≠ true) :
    r.mode = modeCode (classify p (patternKey c) n) ∧ r.status = 0x01 := by
  rw [hd.mode, hd.status, Bool.eq_false_iff.2 h]
  exact ⟨rfl, rfl⟩

/-- Settles O17: a bad number's plan is quiet; a good one's fields are those of `DecodesAlarm`, none of which wraps. -/
theorem almDecodeResult : Obligations.AlmDecodeResult := by
  refine ⟨fun alm s h1 h2 => exec_eq_of_quiet_plan (planOf_almDecode_badNumber s.params h1 h2), fun n s => ?_⟩
  intro c m
  obtain ⟨t, hexec, heffect, hout⟩ := exec_almDecode n s
  have hd : DecodesAlarm s.params n c t.out := hout
  refine ⟨t, hexec, heffect, ?sec, ?min, ?hour, ?day, ?wday, hd.mon, hd.year,
    fun hoff => hd.of_offInferred (offInferred_iff.2 hoff),
    fun hkept => hd.of_not_offInferred (mt offInferred_iff.1 hkept)⟩
  case sec => rw [hd.sec, apply_ite BitVec.toNat, (sexagesimalField_toNat _).1]; rfl
  case min => rw [hd.min, (sexagesimalField_toNat _).1]
  case hour => rw [hd.hour, (hourField_toNat _).1]
  case day => rw [hd.day, apply_ite BitVec.toNat, (dayField_toNat _).1]; rfl
  case wday => rw [hd.wday, apply_ite BitVec.toNat, weekdayField, trunc8_bcd2dec_toNat]; rfl

/-! ## ALM_ENCODE -/

theorem planOf_almEncode_badNumber (p : Config.Params) {alm : Byte} (h1 : alm ≠ 1) (h2 : alm ≠ 2)
    (mode : BitVec 4) (sec min hour wday day : Byte) :
    planOf p (.almEncode alm mode sec min hour wday day) = .quiet 0 statusEalm := by
  simp only [planOf, alarmOf_eq_none h1 h2]

theorem planOf_almEncode_badMode (p : Config.Params) (n : AlarmNum) {mode : BitVec 4}
    (hmode : mode = 0 ∨ 9 ≤ mode.toNat) (sec min hour wday day : Byte) :
    planOf p (.almEncode (alarmBlock n).1 mode sec min hour wday day) = .quiet 0 statusEmode := by
  simp only [planOf, alarmOf_alarmBlock, (bind_encodedBytes_eq_none_iff p mode sec min hour wday day).2 hmode]

theorem exec_almEncode {n : AlarmNum} {mode : BitVec 4} {sec min hour wday day : Byte} {s : State} {c : AlarmBytes}
    (hc : ((modeOfCode mode).bind fun m => encodedBytes s.params m sec min hour wday day) = some c) :
    ∃ t, exec (.almEncode (alarmBlock n).1 mode sec min hour wday day) s = .next t
      ∧ WriteEffect s t (alarmBase n) (wireBytes n c) 0x01 := by
  refine exec_of_write_plan ?_ ((wireBytes_length n c).trans_le (alarmLen_le_seven n))
  simp only [planOf, alarmOf_alarmBlock, hc]
  rfl

theorem eq_modeCode_of_modeOfCode {mode : BitVec 4} {m : AlarmMode} (h : modeOfCode mode = some m) :
    mode = modeCode m := by
  revert h
  unfold modeOfCode
  split_ifs <;> rintro ⟨⟩ <;> assumption

theorem alarmRow_of_unrecognised (p : Config.Params) {code : Nat} (h : code = 0 ∨ 9 ≤ code) (s m hr d w : Byte) :
    alarmRow p code s m hr d w = none := by
  unfold alarmRow
  split
  case h_9 => rfl
  all_goals omega

/-- The rows of R160 and R161 are the conceptual bytes that the model encodes, mode by mode. -/
theorem alarmRow_eq (p : Config.Params) (mode : BitVec 4) (sec min hour wday day : Byte) :
    alarmRow p mode.toNat (dec2bcd8 sec) (dec2bcd8 min) (dec2bcd8 hour) (dec2bcd8 day) (dec2bcd8 wday)
      = ((modeOfCode mode).bind fun m => encodedBytes p m sec min hour wday day).map (wireBytes .one) := by
  cases hm : modeOfCode mode with
  | none =>
    have hmode := (modeOfCode_unrecognised_iff mode).1 (.inl hm)
    exact alarmRow_of_unrecognised p (hmode.imp_left (congrArg BitVec.toNat)) _ _ _ _ _
  | some m =>
    obtain rfl := eq_modeCode_of_modeOfCode hm
    obtain ⟨mp, off⟩ := p
    cases m
    case minutesMatch =>
      cases mp <;> simp [alarmRow, modeCode, encodedBytes, pattern, minPatternWord, patternBytes, wireBytes]
    all_goals rfl

/-- Settles O18: what R202 turns away has a quiet plan; a row is written whole for Alarm 1, and without its first byte
for Alarm 2. -/
theorem almEncodeResult : Obligations.AlmEncodeResult := by
  intro alm mode sec min hour wday day s
  refine ⟨fun h1 h2 => ?number, fun halm hmode => ?mode, fun row hrow => ?row⟩
  case number => exact exec_eq_of_quiet_plan (planOf_almEncode_badNumber s.params h1 h2 _ _ _ _ _ _)
  case mode =>
    obtain ⟨n, rfl⟩ : ∃ n, alm = (alarmBlock n).1 := halm.elim (⟨.one, ·⟩) (⟨.two, ·⟩)
    exact exec_eq_of_quiet_plan (planOf_almEncode_badMode s.params n hmode _ _ _ _ _)
  case row =>
    rw [alarmRow_eq] at hrow
    obtain ⟨c, hc, rfl⟩ := Option.map_eq_some_iff.1 hrow
    constructor
    · rintro rfl
      exact exec_almEncode (n := .one) hc
    · rintro rfl
      exact exec_almEncode (n := .two) hc

/-! ## The bytes that an alarm gets back -/

/-- The conceptual bytes that an alarm's wire bytes keep: Alarm 2 loses byte 0 (R150, R162). -/
def seenBytes (n : AlarmNum) (c : AlarmBytes) : AlarmBytes := { c with c0 := if n = .one then c.c0 else 0x00 }

theorem conceptual_wireBytes (n : AlarmNum) (c : AlarmBytes) (d : Dir) (a : Byte) :
    conceptual n ⟨d, a, wireBytes n c⟩ = seenBytes n c := by
  cases n <;> rfl

theorem conceptual_congr {n : AlarmNum} {b b' : Burst} (h : ∀ i < alarmLen n, b.byte i = b'.byte i) :
    conceptual n b = conceptual n b' := by
  cases n with
  | one => simp only [conceptual, h 0 (by decide), h 1 (by decide), h 2 (by decide), h 3 (by decide)]
  | two => simp only [conceptual, h 0 (by decide), h 1 (by decide), h 2 (by decide)]

theorem alarmBytes_of_written {u : State} {n : AlarmNum} {c : AlarmBytes}
    (hu : ∀ i < (wireBytes n c).length,
      u.answer ((alarmBase n).toNat + i) = (Burst.mk .write (alarmBase n) (wireBytes n c)).byte i) :
    u.alarmBytes n = seenBytes n c := by
  rw [← conceptual_readBurst, ← conceptual_wireBytes n c .write (alarmBase n)]
  refine conceptual_congr fun i hi => ?_
  rw [u.readBurst_byte _ hi, hu i (by rwa [wireBytes_length])]

/-! ## One byte of a pattern: 0x80 if the mode does not compare it, else an encoded field (R161) -/

theorem matchEnable_patternByte {b : Byte} (hb : b.getLsbD 7 = false) (x : Bool) :
    (if x then 0x80 else b).getLsbD 7 = x := by
  cases x with
  | false => simpa using hb
  | true => simp

theorem selector_patternByte (b : Byte) (x : Bool) : (if x then 0x80 else b).getLsbD 6 = (!x && b.getLsbD 6) := by
  cases x <;> simp

/-- A field that is 0 of a don't-care byte is returned exactly when it is compared. -/
theorem field_patternByte {f : Byte → Byte} {b v : Byte} (h0 : f 0x80 = 0) (hv : f b = v) (x : Bool) :
    f (if x then 0x80 else b) = if x = false then v else 0 := by
  cases x with
  | false => simpa using hv
  | true => simpa using h0

theorem day_patternByte {day : Byte} (hday : day.toNat ≤ 31) (w : Byte) (x dy : Bool) :
    (if !x && dy then 0 else dayField (if x then 0x80 else if dy then w else dec2bcd8 day))
      = if x = false ∧ dy = false then day else 0 := by
  cases x with
  | true => simp [show dayField 0x80#8 = 0 from rfl]
  | false =>
    cases dy with
    | true => simp
    | false => simpa using dayField_dec2bcd8 (Nat.lt_of_le_of_lt hday (by decide))

/-- DY/DT stands outside the weekday's mask (R154). -/
theorem weekdayField_or_selector (b : Byte) : weekdayField (0x40 ||| b) = weekdayField b := by
  refine weekdayField_congr ?_
  rw [BitVec.and_or_distrib_right]
  exact BitVec.zero_or

theorem wday_patternByte {wday : Byte} (hwday : wday.toNat ≤ 7) (d : Byte) (x dy : Bool) :
    (if !x && dy then weekdayField (if x then 0x80 else if dy then 0x40 ||| dec2bcd8 wday else d) else 0)
      = if x = false ∧ dy = true then wday else 0 := by
  cases x with
  | true => simp
  | false =>
    cases dy with
    | false => simp
    | true =>
      simpa using (weekdayField_or_selector _).trans (weekdayField_dec2bcd8 (Nat.lt_succ_of_le hwday))

/-! ## The mode an alarm gets back -/

/-- The mode that an encoded mode decodes as: R164's table, its "not applicable" entries included. -/
def readBackAs : AlarmNum → AlarmMode → AlarmMode
  | .one, .perMinute => .secondsMatch
  | .two, .perSecond => .perMinute
  | .two, .secondsMatch => .perMinute
  | _, m => m

theorem modeCode_readBackAs (n : AlarmNum) (m : AlarmMode) :
    modeCode (readBackAs n m) =
      if n = .two ∧ (modeCode m = 1 ∨ modeCode m = 3) then 2
      else if n = .one ∧ modeCode m = 2 then 3 else modeCode m := by
  cases n <;> cases m <;> decide

theorem readBackAs_eq_dateMatch_iff (n : AlarmNum) (m : AlarmMode) : readBackAs n m = .dateMatch ↔ modeCode m = 6 := by
  cases n <;> cases m <;> decide

theorem readBackAs_eq_dayMatch_iff (n : AlarmNum) (m : AlarmMode) : readBackAs n m = .dayMatch ↔ modeCode m = 7 := by
  cases n <;> cases m <;> decide

/-- The fields of R164, Day and Weekday also 0. -/
structure AlarmInRange (sec min hour wday day : Byte) : Prop where
  sec : sec.toNat ≤ 59
  min : min.toNat ≤ 59
  hour : hour.toNat ≤ 23
  wday : wday.toNat ≤ 7
  day : day.toNat ≤ 31

section
variable {n : AlarmNum} {m : AlarmMode} {wp : BitVec 4} {dy : Bool} {sec min hour wday day : Byte} {r : Results}

theorem AlarmInRange.matchEnable_dayDate (h : AlarmInRange sec min hour wday day) (dy : Bool) :
    (if dy then 0x40 ||| dec2bcd8 wday else dec2bcd8 day).getLsbD 7 = false := by
  obtain ⟨-, -, -, hwday, hday⟩ := h
  split
  · rw [BitVec.getLsbD_or, dec2bcd8_getLsbD_of_lt (by omega)]
    rfl
  · exact dec2bcd8_getLsbD_of_lt (by omega)

theorem AlarmInRange.selector_dayDate (h : AlarmInRange sec min hour wday day) (dy : Bool) :
    (if dy then 0x40 ||| dec2bcd8 wday else dec2bcd8 day).getLsbD 6 = dy := by
  obtain ⟨-, -, -, hwday, hday⟩ := h
  split
  case isTrue hdy => rw [BitVec.getLsbD_or, hdy]; rfl
  case isFalse hdy => rw [dec2bcd8_getLsbD_of_lt (by omega), Bool.eq_false_iff.2 hdy]

theorem dayDateSelector_seenBytes_patternBytes (h : AlarmInRange sec min hour wday day) :
    dayDateSelector (seenBytes n (patternBytes wp dy sec min hour wday day)) = (!wp.getLsbD 3 && dy) :=
  (selector_patternByte _ _).trans (by rw [h.selector_dayDate])

/-- The match-enable bits come back as the pattern's, but for Alarm 2's Second; so R152's table tells the mode. -/
theorem classify_seenBytes_patternBytes (hpat : pattern Config.defaultParams m = some (wp, dy))
    (h : AlarmInRange sec min hour wday day) :
    classify Config.defaultParams (patternKey (seenBytes n (patternBytes wp dy sec min hour wday day))) n
      = readBackAs n m := by
  have h0 : (seenBytes n (patternBytes wp dy sec min hour wday day)).c0.getLsbD 7
      = (decide (n = .one) && wp.getLsbD 0) := by
    cases n
    · exact matchEnable_patternByte (dec2bcd8_getLsbD_of_lt (by have := h.sec; omega)) _
    · simp [seenBytes]
  have h1 : (seenBytes n (patternBytes wp dy sec min hour wday day)).c1.getLsbD 7 = wp.getLsbD 1 :=
    matchEnable_patternByte (dec2bcd8_getLsbD_of_lt (by have := h.min; omega)) _
  have h2 : (seenBytes n (patternBytes wp dy sec min hour wday day)).c2.getLsbD 7 = wp.getLsbD 2 :=
    matchEnable_patternByte (dec2bcd8_getLsbD_of_lt (by have := h.hour; omega)) _
  have h3 : (seenBytes n (patternBytes wp dy sec min hour wday day)).c3.getLsbD 7 = wp.getLsbD 3 :=
    matchEnable_patternByte (h.matchEnable_dayDate dy) _
  rw [modeOfEveryFlagWord, h0, h1, h2, h3, ← dayDateSelector, dayDateSelector_seenBytes_patternBytes h]
  cases m <;> cases hpat <;> cases n <;> rfl

/-! ## The round trip -/

/-- Which fields the pattern of a mode compares, by the mode's code (R160, R164). -/
theorem pattern_compares (hpat : pattern Config.defaultParams m = some (wp, dy)) :
    (wp.getLsbD 0 = false ↔ 2 ≤ (modeCode m).toNat ∧ (modeCode m).toNat ≤ 7)
    ∧ (wp.getLsbD 1 = false ↔ 4 ≤ (modeCode m).toNat ∧ (modeCode m).toNat ≤ 7)
    ∧ (wp.getLsbD 2 = false ↔ 5 ≤ (modeCode m).toNat ∧ (modeCode m).toNat ≤ 7)
    ∧ (wp.getLsbD 3 = false ∧ dy = false ↔ modeCode m = 6)
    ∧ (wp.getLsbD 3 = false ∧ dy = true ↔ modeCode m = 7) := by
  cases m <;> cases hpat <;> decide

/-- The entry of R164's table for an alarm and a mode code: what the result registers hold of the encoded alarm. -/
structure ReturnsAlarm (n : AlarmNum) (code : BitVec 4) (sec min hour wday day : Byte) (r : Results) : Prop where
  mode : r.mode = if code = 6 ∧ day = 0 ∨ code = 7 ∧ wday = 0 then 8
    else if n = .two ∧ (code = 1 ∨ code = 3) then 2 else if n = .one ∧ code = 2 then 3 else code
  sec : r.sec = if n = .one ∧ 2 ≤ code.toNat ∧ code.toNat ≤ 7 then sec else 0
  min : r.min = if 4 ≤ code.toNat ∧ code.toNat ≤ 7 then min else 0
  hour : r.hour = if 5 ≤ code.toNat ∧ code.toNat ≤ 7 then hour else 0
  day : r.day = if code = 6 then day else 0
  wday : r.wday = if code = 7 then wday else 0

/-- The round trip of every mode with a pattern, Off left aside. -/
theorem DecodesAlarm.returns_pattern (hpat : pattern Config.defaultParams m = some (wp, dy))
    (h : AlarmInRange sec min hour wday day)
    (hd : DecodesAlarm Config.defaultParams n (seenBytes n (patternBytes wp dy sec min hour wday day)) r) :
    ReturnsAlarm n (modeCode m) sec min hour wday day r := by
  obtain ⟨hcsec, hcmin, hchour, hcday, hcwday⟩ := pattern_compares hpat
  have hday : r.day = if modeCode m = 6 then day else 0 := by
    rw [hd.day, dayDateSelector_seenBytes_patternBytes h, ← if_congr hcday rfl rfl]
    exact day_patternByte h.day _ _ _
  have hwday : r.wday = if modeCode m = 7 then wday else 0 := by
    rw [hd.wday, dayDateSelector_seenBytes_patternBytes h, ← if_congr hcwday rfl rfl]
    exact wday_patternByte h.wday _ _ _
  have hoff : offInferred Config.defaultParams (readBackAs n m) r = true
      ↔ modeCode m = 6 ∧ day = 0 ∨ modeCode m = 7 ∧ wday = 0 := by
    rw [offInferred_iff, readBackAs_eq_dateMatch_iff, readBackAs_eq_dayMatch_iff, hday, hwday]
    exact (and_iff_right rfl).trans
      (or_congr (and_congr_right fun h6 => by rw [if_pos h6]) (and_congr_right fun h7 => by rw [if_pos h7]))
  refine ⟨?mode, ?sec, ?min, ?hour, hday, hwday⟩
  case mode =>
    rw [hd.mode, classify_seenBytes_patternBytes hpat h, apply_ite modeCode, if_congr hoff rfl rfl, modeCode_readBackAs]
    rfl
  case sec =>
    rw [hd.sec, ite_and, ← if_congr hcsec rfl rfl]
    cases n with
    | one => exact field_patternByte rfl (sexagesimalField_dec2bcd8 (by have := h.sec; omega)) _
    | two => rfl
  case min =>
    rw [hd.min, ← if_congr hcmin rfl rfl]
    exact field_patternByte rfl (sexagesimalField_dec2bcd8 (by have := h.min; omega)) _
  case hour =>
    rw [hd.hour, ← if_congr hchour rfl rfl]
    exact field_patternByte rfl (hourField_dec2bcd8 (by have := h.hour; omega)) _

theorem encodedBytes_of_ne_off (p : Config.Params) (hm : m ≠ .off) :
    encodedBytes p m sec min hour wday day
      = (pattern p m).map fun wd => patternBytes wd.1 wd.2 sec min hour wday day := by
  cases m
  case off => exact absurd rfl hm
  all_goals rfl

/-- Off writes what DateMatch writes with every field 0 (R163); every other mode writes its pattern. -/
theorem encodedBytes_cases {p : Config.Params} {c : AlarmBytes}
    (hc : encodedBytes p m sec min hour wday day = some c) :
    (m = .off ∧ c = patternBytes 0b0000 false 0 0 0 0 0)
      ∨ ∃ wp dy, pattern p m = some (wp, dy) ∧ c = patternBytes wp dy sec min hour wday day := by
  by_cases hm : m = .off
  · subst hm
    exact .inl ⟨rfl, (Option.some.inj hc).symm⟩
  · rw [encodedBytes_of_ne_off p hm] at hc
    obtain ⟨⟨wp, dy⟩, hpat, rfl⟩ := Option.map_eq_some_iff.1 hc
    exact .inr ⟨wp, dy, hpat, rfl⟩

/-- The round trip of every mode: Off is DateMatch with every field 0, which decodes as Off. -/
theorem DecodesAlarm.returns {c : AlarmBytes} (h : AlarmInRange sec min hour wday day)
    (hc : encodedBytes Config.defaultParams m sec min hour wday day = some c)
    (hd : DecodesAlarm Config.defaultParams n (seenBytes n c) r) :
    ReturnsAlarm n (modeCode m) sec min hour wday day r := by
  obtain ⟨rfl, rfl⟩ | ⟨wp, dy, hpat, rfl⟩ := encodedBytes_cases hc
  · have hdate : ReturnsAlarm n (modeCode .dateMatch) 0 0 0 0 0 r :=
      hd.returns_pattern rfl ⟨by decide, by decide, by decide, by decide, by decide⟩
    obtain ⟨hmode, hsec, hmin, hhour, hday, hwday⟩ := hdate
    constructor <;> simp [modeCode, hmode, hsec, hmin, hhour, hday, hwday]
  · exact hd.returns_pattern hpat h

theorem exists_encodedBytes (p : Config.Params) {mode : BitVec 4} (hlo : 1 ≤ mode.toNat) (hhi : mode.toNat ≤ 8)
    (sec min hour wday day : Byte) :
    ∃ m c, mode = modeCode m ∧ encodedBytes p m sec min hour wday day = some c := by
  have hne : ((modeOfCode mode).bind fun m => encodedBytes p m sec min hour wday day) ≠ none := by
    rw [Ne, bind_encodedBytes_eq_none_iff]
    rintro (rfl | h)
    · exact absurd hlo (by decide)
    · omega
  obtain ⟨c, hc⟩ := Option.ne_none_iff_exists'.1 hne
  obtain ⟨m, hm, hc⟩ := Option.bind_eq_some_iff.1 hc
  exact ⟨m, c, eq_modeCode_of_modeOfCode hm, hc⟩

/-- The flag word 0110 is no mode's, and Unknown is never made Off (R152, R153). -/
theorem DecodesAlarm.mode_of_undefined_flags {p : Config.Params} {c : AlarmBytes} (hd : DecodesAlarm p n c r)
    (h0 : c.c0.getLsbD 7 = false) (h1 : c.c1.getLsbD 7 = true) (h2 : c.c2.getLsbD 7 = true)
    (h3 : c.c3.getLsbD 7 = false) : r.mode = 0 := by
  have hunknown : classify p (patternKey c) n = .unknown := by rw [modeOfEveryFlagWord, h0, h1, h2, h3]
  rw [hd.mode, hunknown]
  simp [offInferred, modeCode]

end

/-- Settles O27: the encoded bytes of a mode, answered at the alarm's block, are decoded as R164's table says, which is
`DecodesAlarm.returns`; the flag word 0110 is Unknown by O16. -/
theorem alarmRoundTrip : Obligations.AlarmRoundTrip := by
  constructor
  · intro n mode sec min hour wday day s hs hlo hhi hsec hmin hhour hday hwday
    obtain ⟨m, c, rfl, hc⟩ := exists_encodedBytes Config.defaultParams hlo hhi sec min hour wday day
    have hsent : ((modeOfCode (modeCode m)).bind fun m => encodedBytes s.params m sec min hour wday day) = some c := by
      rw [modeOfCode_modeCode, hs]
      exact hc
    obtain ⟨t, hexec, hwrite⟩ := exec_almEncode (n := n) hsent
    refine ⟨t, _, hexec, hwrite.burst, fun u hu hanswer => ?_⟩
    obtain ⟨v, hdecode, -, hd⟩ := exec_almDecode n u
    rw [hu, alarmBytes_of_written hanswer] at hd
    have hr := hd.returns ⟨hsec, hmin, hhour, hwday, hday⟩ hc
    exact ⟨v, hdecode, hr.mode, hr.sec, hr.min, hr.hour, hr.day, hr.wday, hd.mon, hd.year⟩
  · intro s
    constructor
    · intro h0 h1 h2 h3
      obtain ⟨t, hexec, -, hd⟩ := exec_almDecode .one s
      exact ⟨t, hexec, hd.mode_of_undefined_flags h0 h1 h2 h3⟩
    · intro h1 h2 h3
      obtain ⟨t, hexec, -, hd⟩ := exec_almDecode .two s
      have h0 : (s.alarmBytes .two).c0.getLsbD 7 = false := (by decide : (0x00 : Byte).getLsbD 7 = false)
      exact ⟨t, hexec, hd.mode_of_undefined_flags h0 h1 h2 h3⟩

end Sys2Proof.Machine
end

section
/-! PROOF. The family of 60_exceptions.md. Every step completes (O22), since it issues its bursts from any state. The
last burst stays exposed (O31): a command exposes its own whatever stood there, a reset clears TXN_DIR, and no other step
touches the result registers or the burst list. The STATUS bits (O20): STATUS is one function of the command and of the
MODE it leaves (`commandPlan_reports`), whose bits are R202's conditions. -/

namespace Sys2Proof.Machine

/-! ## Completion -/

/-- Settles O22: `step_issues` answers a next state from any state. -/
theorem everyStepCompletes : Obligations.EveryStepCompletes := by
  intro s
  obtain ⟨t, -, ht, -⟩ := step_issues s
  exact ⟨t, ht⟩

/-! ## The burst that TXN and RB expose -/

theorem Results.record_record_self (r : Results) (b : Burst) : (r.record b).record b = r.record b := rfl

/-- A plan exposes the burst it issues, or TXN_DIR 0 if it issues none, whatever was exposed before (R22, R26). -/
theorem Plan.run_showsLastBurst (s : State) (a : Plan) : (a.run s).ShowsLastBurst := by
  cases a with
  | quiet => exact .inl rfl
  | read base n fields =>
    exact .inr ⟨s.readBurst base n, List.getLast?_concat, (Results.record_record_self _ _).symm⟩
  | write base v status =>
    exact .inr ⟨⟨.write, base, v⟩, List.getLast?_concat, (Results.record_record_self _ _).symm⟩

/-- A step keeps the last burst exposed; only an idle step, the ordering of a reset and a host read need that it was. -/
theorem step_keeps_showsLastBurst {s : State} (hs : s.ShowsLastBurst) : ∃ t, step s = .next t ∧ t.ShowsLastBurst := by
  obtain ⟨-, h⟩ | ⟨c, rest, i, -, -, h⟩ | ⟨c, rest, -, -, h⟩ | ⟨rest, -, h⟩ | ⟨c, rest, -, h⟩ | ⟨r, rest, -, h⟩ :=
    step_cases s
  case inr.inl => exact ⟨_, h.trans (exec_eq_plan i _), Plan.run_showsLastBurst _ _⟩
  case inr.inr.inl => exact ⟨_, h, .inl rfl⟩
  case inr.inr.inr.inl => exact ⟨_, h, .inl rfl⟩
  all_goals exact ⟨_, h, hs⟩

/-- Settles O31: by `step_keeps_showsLastBurst`, case by case of what a step can do. -/
theorem stepKeepsLastBurstExposed : Obligations.StepKeepsLastBurstExposed := by
  intro s t hs h
  obtain ⟨u, hu, hshows⟩ := step_keeps_showsLastBurst hs
  obtain rfl : u = t := by simpa using hu.symm.trans h
  exact hshows

/-! ## The STATUS of every command -/

/-- STATUS as R24 and R202 give it for a command that leaves `mode` in MODE: each bit is a condition on the word and one
on the ports or on MODE. -/
def reportedStatus (c : Command) (mode : BitVec 4) : Byte :=
  statusWord
    (ecmd := decide (c.word ∉ legalWords))
    (ealm := decide (c.word = 0x04 ∨ c.word = 0x05) && decide (c.ports.alm ≠ 1 ∧ c.ports.alm ≠ 2))
    (emode := decide (c.word = 0x05)
      && decide ((c.ports.alm = 1 ∨ c.ports.alm = 2) ∧ (c.ports.mode = 0 ∨ c.ports.mode.toNat ≥ 9)))
    (wdnorm := decide (c.word = 0x03 ∨ c.word = 0x13) && decide (c.ports.wday = 0 ∨ c.ports.wday.toNat > 7))
    (offinf := decide (c.word = 0x04) && decide (mode = 8))

theorem reportedStatus_reserved {c : Command} (h : c.word ∉ legalWords) (mode : BitVec 4) :
    reportedStatus c mode = statusEcmd := by
  have hne : ∀ w ∈ legalWords, c.word ≠ w := fun w hw hc => h (hc ▸ hw)
  have h03 : c.word ≠ 0x03 := hne _ (by decide)
  have h13 : c.word ≠ 0x13 := hne _ (by decide)
  have h04 : c.word ≠ 0x04 := hne _ (by decide)
  have h05 : c.word ≠ 0x05 := hne _ (by decide)
  simp only [reportedStatus, statusEcmd, h, h03, h13, h04, h05, not_false_eq_true, or_self, decide_true, decide_false,
    Bool.false_and]

theorem reportedStatus_almDecode (q : Ports) (mode : BitVec 4) :
    reportedStatus ⟨Mnemonic.almDecode.word, q⟩ mode
      = statusWord false (decide (q.alm ≠ 1 ∧ q.alm ≠ 2)) false false (decide (mode = 8)) := rfl

theorem reportedStatus_almEncode (q : Ports) (mode : BitVec 4) :
    reportedStatus ⟨Mnemonic.almEncode.word, q⟩ mode
      = statusWord false (decide (q.alm ≠ 1 ∧ q.alm ≠ 2))
          (decide ((q.alm = 1 ∨ q.alm = 2) ∧ (q.mode = 0 ∨ q.mode.toNat ≥ 9))) false false := rfl

/-- NORMWD changes exactly the weekdays outside 1 to 7 (R121). -/
theorem weekdayChanged_eq_decide (w : Byte) : weekdayChanged w = decide (w = 0 ∨ w.toNat > 7) := by
  by_cases h : w = 0 ∨ w.toNat > 7
  · rw [decide_eq_true h, weekdayChanged, normwd_of_invalid h, bne_iff_ne]
    rintro rfl
    exact absurd h (by decide)
  · rw [decide_eq_false h, weekdayChanged, normwd, if_neg h, bne_self_eq_false]

/-- An alarm number is bad, or it is an alarm's (R62). -/
theorem alarmNumber_cases (alm : Byte) : (alm ≠ 1 ∧ alm ≠ 2) ∨ ∃ n, alm = (alarmBlock n).1 := by
  by_cases h1 : alm = 1
  · exact .inr ⟨.one, h1⟩
  · by_cases h2 : alm = 2
    · exact .inr ⟨.two, h2⟩
    · exact .inl ⟨h1, h2⟩

theorem alarmBlock_number (n : AlarmNum) : (alarmBlock n).1 = 1 ∨ (alarmBlock n).1 = 2 := by cases n <;> decide

theorem alarmBlock_not_bad (n : AlarmNum) : ¬ ((alarmBlock n).1 ≠ 1 ∧ (alarmBlock n).1 ≠ 2) :=
  fun ⟨h1, h2⟩ => (alarmBlock_number n).elim h1 h2

/-- CLASSIFY never reports Off; only the post-correction does (R152, R153). -/
theorem classify_ne_off (p : Config.Params) (key : BitVec 5) (n : AlarmNum) : classify p key n ≠ .off := by
  unfold classify
  dsimp only
  cases n <;> split_ifs <;> simp

/-- MODE is Off exactly if the post-correction reclassified it (R153). -/
theorem alarmResults_mode_eq_off_iff (p : Config.Params) (n : AlarmNum) (c : AlarmBytes) :
    (alarmResults p n c).mode = 8
      ↔ offInferred p (classify p (patternKey c) n) (alarmFields n c) = true := by
  change modeCode (if _ then _ else _) = modeCode .off ↔ _
  rw [modeCode_inj]
  split
  · next h => exact iff_of_true rfl h
  · next h => exact iff_of_false (classify_ne_off _ _ _) h

/-- OFFINF reports exactly the MODE Off (R155). -/
theorem alarmResults_status (p : Config.Params) (n : AlarmNum) (c : AlarmBytes) :
    (alarmResults p n c).status = statusOff (decide ((alarmResults p n c).mode = 8)) :=
  congrArg statusOff (Bool.eq_iff_iff.2 ((alarmResults_mode_eq_off_iff p n c).symm.trans decide_eq_true_iff.symm))

/-- What a plan leaves in STATUS is what `reportedStatus` says of the command `c`. -/
def Plan.Reports (s : State) (c : Command) (a : Plan) : Prop :=
  (a.results s).status = reportedStatus c (a.results s).mode

/-- ALM_DECODE reports EALM for a bad alarm number, OFFINF for a mode reclassified as Off (R155). -/
theorem planOf_almDecode_reports (p : Config.Params) (q : Ports) (s : State) :
    (planOf p (.almDecode q.alm)).Reports s ⟨Mnemonic.almDecode.word, q⟩ := by
  rw [Plan.Reports, reportedStatus_almDecode]
  obtain hbad | ⟨n, hn⟩ := alarmNumber_cases q.alm
  · rw [planOf_almDecode_badNumber p hbad.1 hbad.2, decide_eq_true hbad]
    rfl
  · rw [hn, planOf_almDecode_valid, decide_eq_false (alarmBlock_not_bad n)]
    exact alarmResults_status p n _

/-- ALM_ENCODE tests the alarm number first, then the mode (R202). -/
theorem planOf_almEncode_reports (p : Config.Params) (q : Ports) (s : State) :
    (planOf p (.almEncode q.alm q.mode q.sec q.min q.hour q.wday q.day)).Reports s ⟨Mnemonic.almEncode.word, q⟩ := by
  rw [Plan.Reports, reportedStatus_almEncode]
  obtain hbad | ⟨n, hn⟩ := alarmNumber_cases q.alm
  · rw [planOf_almEncode_badNumber p hbad.1 hbad.2, decide_eq_true hbad,
      decide_eq_false fun h => h.1.elim hbad.1 hbad.2]
    rfl
  · rw [hn, decide_eq_false (alarmBlock_not_bad n)]
    by_cases hmode : q.mode = 0 ∨ q.mode.toNat ≥ 9
    · rw [planOf_almEncode_badMode p n hmode, decide_eq_true ⟨alarmBlock_number n, hmode⟩]
      rfl
    · obtain ⟨c, hc⟩ := Option.ne_none_iff_exists'.1
        (mt (bind_encodedBytes_eq_none_iff p q.mode q.sec q.min q.hour q.wday q.day).1 hmode)
      rw [decide_eq_false fun h => hmode h.2]
      simp only [planOf, alarmOf_alarmBlock, hc]
      rfl

theorem planOf_sample_reports (p : Config.Params) (q : Ports) (m : Mnemonic) (s : State) :
    (planOf p (sample q m)).Reports s ⟨m.word, q⟩ := by
  cases m with
  | bcd2dec => rfl
  | dec2bcd => rfl
  | calDecode => rfl
  | calEncodeFull => exact congrArg statusWeekday (weekdayChanged_eq_decide q.wday)
  | calEncodeTime => rfl
  | calEncodeDate => exact congrArg statusWeekday (weekdayChanged_eq_decide q.wday)
  | almDecode => exact planOf_almDecode_reports p q s
  | almEncode => exact planOf_almEncode_reports p q s

theorem commandPlan_reports (p : Config.Params) (c : Command) (s : State) : (commandPlan p c).Reports s c := by
  unfold commandPlan
  by_cases hw : c.word ∈ legalWords
  case neg =>
    rw [decode_of_not_legal hw, Plan.Reports, reportedStatus_reserved hw]
    rfl
  case pos =>
    obtain ⟨m, hm⟩ := Option.ne_none_iff_exists'.1 (mt mnemonicOf_eq_none_iff.1 (not_not.2 hw))
    obtain ⟨w, q⟩ := c
    obtain rfl : w = m.word := word_of_mnemonicOf hm
    rw [decode_word]
    exact planOf_sample_reports p q m s

/-- A bit of `reportedStatus` as the two conditions that set it. -/
theorem eq_true_iff_and {b : Bool} {p q : Prop} [Decidable p] [Decidable q] (h : b = (decide p && decide q)) :
    b = true ↔ p ∧ q := by
  rw [h, Bool.and_eq_true, decide_eq_true_iff, decide_eq_true_iff]

/-- Settles O20: the bits of `reportedStatus` are the conditions stated, and a command's results are sound. -/
theorem statusBitsOfEveryCommand : Obligations.StatusBitsOfEveryCommand := by
  intro c s t h
  rw [runCommand_eq_plan] at h
  obtain rfl : _ = t := by simpa using h
  obtain ⟨hvalid, hecmd, healm, hemode, hwdnorm, hoffinf, h6, h7⟩ :=
    Results.bits_of_status (commandPlan_reports s.params c s)
  obtain ⟨hsound, -⟩ := commandPlan_sound s.params c s
  exact ⟨hvalid, (Bool.eq_iff_iff.1 hecmd).trans decide_eq_true_iff, eq_true_iff_and healm, eq_true_iff_and hemode,
    eq_true_iff_and hwdnorm, eq_true_iff_and hoffinf, h6, h7, hsound.oneOutcome⟩

end Sys2Proof.Machine
end

section
/-! PROOF. The family of 70_reset_and_hazards.md. What a step does with each host move but a command, said once
(`step_reset`, `step_issueWithReset`, `step_read`); O1 and O35 follow. A command forgets the result registers it finds, so
a reset just before it leaves no trace (`runCommand_blockReset`); O34 follows. Runs compose with their bursts
(`RunsIssuing.trans`), so a program is the runs of its commands, one step each (O37). -/

namespace Sys2Proof.Machine

/-! ## A step with a reset or a read as the next move -/

theorem step_reset {s : State} {rest : List HostMove} (h : s.host = .reset :: rest) :
    step s = .next (State.blockReset { s with host := rest }) := by
  simp only [step, h]

theorem step_issueWithReset {s : State} {c : Command} {rest : List HostMove} (h : s.host = .issueWithReset c :: rest) :
    step s = .next (State.orderReset { s with host := rest } c) := by
  simp only [step, h]

theorem step_read {s : State} {r : ResultReg} {rest : List HostMove} (h : s.host = .read r :: rest) :
    step s = .next { s with host := rest } := by
  simp only [step, h]

/-- Every result register reads 0 after reset (R220). -/
theorem Results.zero_get (r : ResultReg) : Results.zero.get r = 0 := by
  cases r with
  | rb i => fin_cases i <;> rfl
  | _ => rfl

/-- Settles O1: both resets leave `Results.zero`, and a later one touches nothing else but its own move. -/
theorem resetZeroesEveryResultRegister : Obligations.ResetZeroesEveryResultRegister :=
  ⟨Results.zero_get, rfl, fun _ _ h => ⟨_, step_reset h, Results.zero_get, rfl, rfl, rfl, rfl, rfl, rfl⟩⟩

/-- Settles O35: a read move is dropped and the rest of the state stays. -/
theorem hostReadsHaveNoEffect : Obligations.HostReadsHaveNoEffect :=
  fun _ _ _ h => ⟨_, step_read h, rfl, rfl⟩

/-! ## A reset beside a command -/

/-- A plan writes every result register and reads none (R26). -/
theorem Plan.run_blockReset (s : State) (a : Plan) : a.run s.blockReset = a.run s := by
  cases a with
  | quiet => rfl
  | read => rfl
  | write => rfl

/-- A reset just before a command leaves no trace of itself. -/
theorem runCommand_blockReset (c : Command) (s : State) : runCommand c s.blockReset = runCommand c s := by
  rw [runCommand_eq_plan, runCommand_eq_plan, Plan.run_blockReset, State.blockReset_params]

/-- The two orders of R222. -/
theorem State.orderReset_cases (s : State) (c : Command) :
    s.orderReset c = { s with host := .reset :: .issue c :: s.host, draws := s.draws + 1 }
      ∨ s.orderReset c = { s with host := .issue c :: .reset :: s.host, draws := s.draws + 1 } := by
  unfold State.orderReset
  split
  · exact .inl rfl
  · exact .inr rfl

/-- A reset, then a command: the run ends where the command alone would. -/
theorem runs_reset_issue {s r : State} {c : Command} {rest : List HostMove} (h : s.host = .reset :: .issue c :: rest)
    (hr : runCommand c { s with host := rest } = .next r) : Runs 2 s r :=
  ⟨_, step_reset h, r, (step_issue rfl).trans ((runCommand_blockReset c { s with host := rest }).trans hr), rfl⟩

/-- A command does the same whatever moves the host has still to make, and leaves these. -/
theorem runCommand_withHost {s r : State} {c : Command} (h : runCommand c s = .next r) (moves : List HostMove) :
    runCommand c { s with host := moves } = .next { r with host := moves } := by
  rw [runCommand_eq_plan] at h ⊢
  obtain rfl : _ = r := by simpa using h
  cases commandPlan s.params c with
  | quiet => rfl
  | read => rfl
  | write => rfl

/-- A command, then a reset: the run ends in the reset of where the command alone would end. -/
theorem runs_issue_reset {s r : State} {c : Command} {rest : List HostMove} (h : s.host = .issue c :: .reset :: rest)
    (hr : runCommand c { s with host := rest } = .next r) : Runs 2 s (State.blockReset { r with host := rest }) :=
  ⟨{ r with host := .reset :: rest }, (step_issue h).trans (runCommand_withHost hr (.reset :: rest)),
    _, step_reset rfl, rfl⟩

/-- Settles O34: `r` is where the command alone ends. The reset first leaves no trace on it; the reset last clears its
result registers. -/
theorem simultaneousResetIsOrdered : Obligations.SimultaneousResetIsOrdered := by
  intro s c rest h
  have hr := runCommand_eq_plan c { s with host := rest, draws := s.draws + 1 }
  generalize Plan.run _ _ = r at hr
  have hstep := step_issueWithReset h
  obtain hfirst | hlast := State.orderReset_cases { s with host := rest } c
  · obtain ⟨-, hhost, -⟩ := frameOfEveryCommand c _ r hr
    rw [hfirst] at hstep
    exact ⟨r, r, ⟨_, hstep, runs_reset_issue rfl hr⟩, hr, hhost, rfl, .inl rfl⟩
  · rw [hlast] at hstep
    exact ⟨State.blockReset { r with host := rest }, r, ⟨_, hstep, runs_issue_reset rfl hr⟩, hr, rfl, rfl, .inr rfl⟩

/-! ## Programs -/

theorem Runs.trans {k l : Nat} {s t u : State} (h : Runs k s t) (h' : Runs l t u) : Runs (k + l) s u := by
  induction k generalizing s with
  | zero =>
    obtain rfl : s = t := h
    rwa [Nat.zero_add]
  | succ k ih =>
    obtain ⟨s', hstep, hrest⟩ := h
    rw [Nat.succ_add]
    exact ⟨s', hstep, ih hrest⟩

/-- A run of `k` steps that issues the bursts `bs`, all legal and at most one a step (R42, R227). -/
structure RunsIssuing (k : Nat) (s t : State) (bs : List Burst) : Prop where
  runs : Runs k s t
  bursts : t.bursts = s.bursts ++ bs
  length_le : bs.length ≤ k
  legal : ∀ b ∈ bs, b.Legal

theorem RunsIssuing.refl (s : State) : RunsIssuing 0 s s [] :=
  ⟨rfl, (List.append_nil _).symm, Nat.le_refl 0, by simp⟩

theorem RunsIssuing.trans {k l : Nat} {s t u : State} {bs bs' : List Burst} (h : RunsIssuing k s t bs)
    (h' : RunsIssuing l t u bs') : RunsIssuing (k + l) s u (bs ++ bs') where
  runs := h.runs.trans h'.runs
  bursts := by rw [h'.bursts, h.bursts, List.append_assoc]
  length_le := List.length_append.trans_le (Nat.add_le_add h.length_le h'.length_le)
  legal := List.forall_mem_append.2 ⟨h.legal, h'.legal⟩

/-- A plan issues at most one burst (R42). -/
theorem Plan.bursts_length_le (s : State) (a : Plan) : (a.bursts s).length ≤ 1 := by
  cases a with
  | quiet => exact Nat.zero_le 1
  | read => exact Nat.le_refl 1
  | write => exact Nat.le_refl 1

/-- The step that runs a command issues at most one burst, a legal one, leaves the other moves, and sets VALID (R24). -/
theorem step_issue_completes {s : State} {c : Command} {rest : List HostMove} (h : s.host = .issue c :: rest) :
    ∃ t bs, step s = .next t ∧ RunsIssuing 1 s t bs ∧ t.host = rest ∧ t.out.valid = true := by
  have hstep : step s = .next ((commandPlan s.params c).run { s with host := rest }) :=
    (step_issue h).trans (runCommand_eq_plan c _)
  obtain ⟨-, hlegal⟩ := commandPlan_sound s.params c { s with host := rest }
  obtain ⟨hvalid, -⟩ := Results.bits_of_status (commandPlan_reports s.params c { s with host := rest })
  exact ⟨_, _, hstep, ⟨⟨_, hstep, rfl⟩, (Plan.run_issues _ _).bursts, Plan.bursts_length_le _ _, hlegal⟩,
    Plan.run_host _ _, hvalid⟩

/-- Commands that the host issues next run one step each, and leave it the moves that follow them. -/
theorem commands_run {cs : List Command} {rest : List HostMove} {s : State} (h : s.host = cs.map .issue ++ rest) :
    ∃ t bs, RunsIssuing cs.length s t bs ∧ t.host = rest := by
  induction cs generalizing s with
  | nil => exact ⟨s, [], .refl s, h⟩
  | cons c cs ih =>
    obtain ⟨u, bs, -, hone, hhost, -⟩ := step_issue_completes h
    obtain ⟨t, bs', hruns, ht⟩ := ih hhost
    rw [List.length_cons, Nat.add_comm]
    exact ⟨t, bs ++ bs', hone.trans hruns, ht⟩

/-- Settles O37: all commands but the last run by `commands_run`, then the last one's step sets VALID. -/
theorem programsRunToTheirEnd : Obligations.ProgramsRunToTheirEnd := by
  intro cs s h
  obtain rfl | ⟨init, last, rfl⟩ := cs.eq_nil_or_concat'
  · obtain ⟨hruns, hbursts, hlen, hlegal⟩ := RunsIssuing.refl s
    exact ⟨s, [], hruns, h, hbursts, hlen, hlegal, by simp⟩
  · obtain ⟨u, bs, hinit, hu⟩ := commands_run (h.trans List.map_append)
    obtain ⟨t, bs', hstep, hone, ht, hvalid⟩ := step_issue_completes hu
    obtain ⟨hruns, hbursts, hlen, hlegal⟩ := hinit.trans hone
    rw [List.length_append, List.length_singleton, List.getLast?_concat, Nat.add_sub_cancel]
    refine ⟨t, bs ++ bs', hruns, ht, hbursts, hlen, hlegal, ?_⟩
    rintro _ ⟨⟩
    exact ⟨hvalid, u, hinit.runs, hu, hstep⟩

end Sys2Proof.Machine
end
